-- ==== Sys2Proof/Word.lean ====
section
/-! DEFINITION. The widths of the data KCC handles: a byte, a 32-bit register word, a 64-bit lane. -/

namespace Sys2Proof

/-- A byte of a byte string (00_scope.md R12). -/
abbrev Byte := BitVec 8

/-- A 32-bit register or bus word (10_state.md R102, 20_memory.md R203). -/
abbrev Word := BitVec 32

/-- One 64-bit lane of the Keccak state (41_keccak_f.md R450). -/
abbrev Lane := BitVec 64

/-- A 64-bit operand or byte count (10_state.md R107, R123). -/
abbrev U64 := BitVec 64

/-- A byte address on the platform's bus.
DESIGN CHOICE (log 6): 64 bits wide; only bits [5:2] of an address minus KCC_BASE reach KCC (20_memory.md R202). -/
abbrev Address := BitVec 64

end Sys2Proof
end

