-- ==== Sys2Proof/Syntax.lean ====
section
/-! DEFINITION. The commands of KCC: one constructor for each row of spec/opcode_table.json. -/

namespace Sys2Proof

/-- The variant bit V of an initialization (30_encoding.md R302, 00_scope.md R2). -/
inductive Variant where
  /-- V = 0: 128-bit strength, rate 168 bytes. -/
  | v128
  /-- V = 1: 256-bit strength, rate 136 bytes. -/
  | v256
  deriving DecidableEq, Repr

/-- The ten commands of 30_encoding.md R303. Only the initializations have an operand inside the word, the variant;
every other operand is taken from LENA and LENB when the command is issued (R305). -/
inductive Instr where
  /-- NOP (44_control.md R600). -/
  | nop
  /-- CS_INIT (42_sponge_cshake.md R510). -/
  | csInit (v : Variant)
  /-- ABSORB (42_sponge_cshake.md R515). -/
  | absorb
  /-- CS_FINAL (42_sponge_cshake.md R523). -/
  | csFinal
  /-- KMAC_INIT (43_kmac.md R550). -/
  | kmacInit (v : Variant)
  /-- KMAC_FINAL (43_kmac.md R560). -/
  | kmacFinal
  /-- KMAC_RESTORE (43_kmac.md R562). -/
  | kmacRestore
  /-- ENC_LEFT (40_encoders.md R410). -/
  | encLeft
  /-- ENC_RIGHT (40_encoders.md R411). -/
  | encRight
  /-- SOFT_RESET (44_control.md R601). -/
  | softReset
  deriving DecidableEq, Repr

end Sys2Proof
end

