-- ==== Sys2Proof/WellFormed.lean ====
section
/-! DEFINITION. Which command words are legal, by the three conditions of 30_encoding.md R307, written on the word as a
number and apart from the decoder; and which instructions are well formed. -/

namespace Sys2Proof

/-- 30_encoding.md R307 (a): OP = w[7:0] is in the table of R303. -/
def CmdWord.opKnown (w : Word) : Bool :=
  w.toNat % 256 ≤ 8 || w.toNat % 256 == 255

/-- 30_encoding.md R307 (b): RSV = w[31:9] is zero. -/
def CmdWord.reservedClear (w : Word) : Bool :=
  w.toNat / 512 == 0

/-- 30_encoding.md R307 (c): V = w[8] is 1 only on CS_INIT (0x01) and KMAC_INIT (0x04). -/
def CmdWord.variantAllowed (w : Word) : Bool :=
  w.toNat / 256 % 2 == 0 || w.toNat % 256 == 1 || w.toNat % 256 == 4

/-- A command word is legal when no condition of 30_encoding.md R307 makes it illegal. -/
def CmdWord.wellFormed (w : Word) : Bool :=
  CmdWord.opKnown w && CmdWord.reservedClear w && CmdWord.variantAllowed w

/-- Every instruction term is well formed: the one operand a word holds is the variant, and both its values are legal
on both constructors that take it (30_encoding.md R302). The checks that can fail are those of a WORD. -/
def Instr.wellFormed : Instr → Bool
  | .nop => true
  | .csInit _ => true
  | .absorb => true
  | .csFinal => true
  | .kmacInit _ => true
  | .kmacFinal => true
  | .kmacRestore => true
  | .encLeft => true
  | .encRight => true
  | .softReset => true

end Sys2Proof
end

