-- ==== Sys2Proof/Decode.lean ====
section
/-! DEFINITION. The decoder of CMD32 words, total on every word and rejecting by name, and the encoder. -/

namespace Sys2Proof

/-- Why a CMD word is illegal: the three conditions of 30_encoding.md R307. -/
inductive IllegalWord where
  /-- (a) OP is not in the table of R303. -/
  | unknownOp
  /-- (b) RSV = w[31:9] is non-zero. -/
  | reservedBits
  /-- (c) V = 1 on an opcode other than CS_INIT and KMAC_INIT. -/
  | variantBit
  deriving DecidableEq, Repr

/-- OP, bits [7:0] (30_encoding.md R301). -/
def CmdWord.opField (w : Word) : BitVec 8 := w.extractLsb' 0 8

/-- V, bit [8] (30_encoding.md R301). -/
def CmdWord.vField (w : Word) : Bool := w.getLsbD 8

/-- RSV, bits [31:9] (30_encoding.md R301). -/
def CmdWord.rsvField (w : Word) : BitVec 23 := w.extractLsb' 9 23

/-- The variant a set or clear V bit stands for (30_encoding.md R302). -/
def variantOfBit : Bool → Variant
  | false => .v128
  | true => .v256

/-- The V bit of a variant (30_encoding.md R302). -/
def Variant.bit : Variant → Bool
  | .v128 => false
  | .v256 => true

/-- An opcode that does not use V: V = 1 is illegal on it (30_encoding.md R302, R307 (c)). -/
def withoutVariant (v : Bool) (i : Instr) : Except IllegalWord Instr :=
  if v then .error .variantBit else .ok i

/-- The decoder of 30_encoding.md R303, R304 and R307: every 32-bit word is one of the twelve legal words or is
rejected by name. -/
def decode (w : Word) : Except IllegalWord Instr :=
  if CmdWord.rsvField w ≠ 0 then .error .reservedBits
  else
    let v := CmdWord.vField w
    match (CmdWord.opField w).toNat with
    | 0x00 => withoutVariant v .nop
    | 0x01 => .ok (.csInit (variantOfBit v))
    | 0x02 => withoutVariant v .absorb
    | 0x03 => withoutVariant v .csFinal
    | 0x04 => .ok (.kmacInit (variantOfBit v))
    | 0x05 => withoutVariant v .kmacFinal
    | 0x06 => withoutVariant v .kmacRestore
    | 0x07 => withoutVariant v .encLeft
    | 0x08 => withoutVariant v .encRight
    | 0xFF => withoutVariant v .softReset
    | _ => .error .unknownOp

/-- The opcode of a command (30_encoding.md R303). -/
def Instr.opcode : Instr → BitVec 8
  | .nop => 0x00
  | .csInit _ => 0x01
  | .absorb => 0x02
  | .csFinal => 0x03
  | .kmacInit _ => 0x04
  | .kmacFinal => 0x05
  | .kmacRestore => 0x06
  | .encLeft => 0x07
  | .encRight => 0x08
  | .softReset => 0xFF

/-- The V bit of a command's word (30_encoding.md R302). -/
def Instr.vBit : Instr → Bool
  | .csInit v => v.bit
  | .kmacInit v => v.bit
  | .nop | .absorb | .csFinal | .kmacFinal | .kmacRestore | .encLeft | .encRight | .softReset => false

/-- The command word of an instruction: RSV = 0, V, OP (30_encoding.md R301). -/
def encode (i : Instr) : Word :=
  (0 : BitVec 23) ++ BitVec.ofBool i.vBit ++ i.opcode

/-- The instruction the decoder reads from a table word: a CMD32 word is one 32-bit bus word, so its bits are the
table's bits, and a word that does not fit 32 bits is no command (30_encoding.md R300). -/
def decodeTableWord (nbits w : Nat) : Option Instr :=
  if w % 2 ^ nbits < 2 ^ 32 then
    match decode (BitVec.ofNat 32 (w % 2 ^ nbits)) with
    | .ok i => some i
    | .error _ => none
  else none

end Sys2Proof
end

