-- ==== Sys2Proof/Config.lean ====
section
/-! DEFINITION. What an implementation fixes (00_scope.md R9) and the one free value of the spec. -/

namespace Sys2Proof

/-- The parameter KEYPAD_ON_BOUNDARY (00_scope.md R9, 43_kmac.md R555). -/
inductive KeypadMode where
  /-- ZERO_BLOCK: key material ending on a block boundary absorbs a full zero block. -/
  | zeroBlock
  /-- NONE: SP 800-185 bytepad, no block at a boundary. -/
  | noBlock
  deriving DecidableEq, Repr

/-- The parameters of 00_scope.md R9 that a behaviour depends on. They are fixed when the block is built and placed
(70_reset_and_hazards.md R802). -/
structure BuildParams where
  /-- RESETTABLE: the core keeps a post-key snapshot (00_scope.md R9, R10). -/
  resettable : Bool
  /-- KEYPAD_ON_BOUNDARY (43_kmac.md R555). -/
  keypadOnBoundary : KeypadMode
  /-- KCC_BASE, the platform's choice of the window's address (20_memory.md R208). -/
  kccBase : Address
  deriving DecidableEq, Repr

/-- This hardware's parameters (00_scope.md R9: RESETTABLE = 1, KEYPAD_ON_BOUNDARY = ZERO_BLOCK).
KCC_BASE is OPEN in the spec: 0 is a DESIGN CHOICE (log 6); no statement rests on it. -/
def Config.thisHardware : BuildParams :=
  { resettable := true, keypadOnBoundary := .zeroBlock, kccBase := 0#64 }

/-- FREE VALUE (log 5): what the bus carries for a read that rst cut off, "A read abandoned this way returns no value
the host may rely on" (70_reset_and_hazards.md R803, 93_implementation_defined.md I14 `any value`). The argument counts
the draws, so that two abandoned reads need not agree. -/
opaque Config.abandonedRead : Nat → Word

end Sys2Proof
end

