-- ==== Sys2Proof/Machine/State.lean ====
section
/-! DEFINITION. The state of KCC as plain data, its value right after reset (10_state.md), and the reasons a step can stop. -/

namespace Sys2Proof.Machine

/-- The 25 lanes of the Keccak state; lane A[x][y] stands at index x + 5y (41_keccak_f.md R450, R451). -/
abbrev Lanes := Vector Lane 25

/-- The sponge record S (10_state.md R120). -/
structure Sponge where
  /-- S.A, the Keccak state. -/
  lanes : Lanes
  /-- S.R, the rate in bytes. -/
  rate : Nat
  /-- S.var, the variant; STATUS.VAR reads it. -/
  var : Variant
  /-- S.pos, the absorb position. -/
  pos : Nat
  /-- S.ds, the domain-separation byte. -/
  ds : Byte
  /-- S.spos, the squeeze position. -/
  spos : Nat
  deriving DecidableEq, Repr

/-- The snapshot record SNAP: a copy of A, R, var, pos and ds of S (10_state.md R122). -/
structure Snapshot where
  lanes : Lanes
  rate : Nat
  var : Variant
  pos : Nat
  ds : Byte
  deriving DecidableEq, Repr

/-- P.op, the command whose stream is pending (10_state.md R123). -/
inductive PendOp where
  | idle
  | csInit
  | absorb
  | kmacInit
  deriving DecidableEq, Repr

/-- P.seg, the segment now being received, 1 or 2 (10_state.md R123). -/
inductive Seg where
  | one
  | two
  deriving DecidableEq, Repr

/-- The pending-stream record P (10_state.md R123). `op = .idle` is the spec's NONE. -/
structure Pending where
  op : PendOp
  seg : Seg
  /-- Bytes still due in segment 1. -/
  rem1 : U64
  /-- Bytes still due in segment 2. -/
  rem2 : U64
  /-- LENA as latched at issue. -/
  a : U64
  /-- LENB as latched at issue. -/
  b : U64
  deriving DecidableEq, Repr

/-- PHASE (10_state.md R106). The codes 6 and 7 are "never held" and have no name here (log 11). -/
inductive Phase where
  | idle
  | csAbsorb
  | kmKeyed
  | kmAbsorb
  | csSqueeze
  | kmSqueeze
  deriving DecidableEq, Repr

/-- ERR_CAUSE (60_exceptions.md R701). The codes 6 to 15 are "never produced" and have no name here (log 11). -/
inductive ErrCause where
  | noError
  | illegalCmd
  | badPhase
  | protocol
  | length
  | noSnapshot
  deriving DecidableEq, Repr

/-- ERR_SRC (10_state.md R105). -/
inductive ErrSrc where
  | noSource
  | cmdWrite
  | dinWrite
  | doutRead
  deriving DecidableEq, Repr

/-- The error latch fields of STATUS (10_state.md R124, 60_exceptions.md R703). -/
structure ErrLatch where
  err : Bool
  cause : ErrCause
  src : ErrSrc
  op : Byte
  deriving DecidableEq, Repr

/-- A host access as the bus presents it (20_memory.md R201 to R203). The strobes say which byte lanes the master meant;
KCC ignores them. -/
inductive BusAccess where
  | write (addr : Address) (strobes : BitVec 4) (data : Word)
  | read (addr : Address) (strobes : BitVec 4)
  deriving DecidableEq, Repr

/-- What the outside does to the block next (20_memory.md R215, 70_reset_and_hazards.md R800, R803). -/
inductive HostEvent where
  /-- A host access. -/
  | access (a : BusAccess)
  /-- rst is asserted while no access is under way. -/
  | assertRst
  /-- rst is asserted during an access, which is abandoned. -/
  | assertRstDuring (a : BusAccess)
  /-- rst is released. -/
  | releaseRst
  deriving DecidableEq, Repr

/-- What the host observes of one access (20_memory.md R215): the value a read returned, and the level of irq after the
access. -/
inductive Observation where
  | wrote (irq : Bool)
  | returned (v : Word) (irq : Bool)
  /-- A write that rst cut off. -/
  | abandonedWrite
  /-- A read that rst cut off, with the value the bus happened to carry (a free value). -/
  | abandonedRead (v : Word)
  deriving DecidableEq, Repr

/-- The whole state: the spec's (INVENTORY.md, State), then the model's own three fields. -/
structure State where
  /-- The parameters of 00_scope.md R9; nothing changes them (70_reset_and_hazards.md R802). -/
  build : BuildParams
  /-- S (10_state.md R120). -/
  sponge : Sponge
  /-- SNAP (10_state.md R122). -/
  snap : Snapshot
  /-- SNAP_VALID (10_state.md R122). -/
  snapValid : Bool
  /-- P (10_state.md R123). -/
  pend : Pending
  /-- PHASE (10_state.md R106). -/
  phase : Phase
  /-- The error latch (10_state.md R124). -/
  err : ErrLatch
  /-- LENA_LO, LENA_HI, LENB_LO, LENB_HI (10_state.md R107). -/
  lenaLo : Word
  lenaHi : Word
  lenbLo : Word
  lenbHi : Word
  /-- ENC_LEN[3:0] (10_state.md R110). -/
  encLen : BitVec 4
  /-- ENC_W0, ENC_W1, ENC_W2 (10_state.md R110). -/
  encW0 : Word
  encW1 : Word
  encW2 : Word
  /-- INTEN.ERRIE (10_state.md R111). -/
  errie : Bool
  /-- The level of the reset input rst (70_reset_and_hazards.md R800). -/
  rst : Bool
  /-- MODEL'S OWN (log 1): what the outside will do, oldest first. -/
  inputs : List HostEvent
  /-- MODEL'S OWN (log 3): what the host has observed, oldest first (20_memory.md R215). -/
  observed : List Observation
  /-- MODEL'S OWN (log 5): how many free values have been drawn. -/
  freeCount : Nat
  deriving DecidableEq, Repr

/-- Why the machine stops. -/
inductive Fault where
  /-- Raised by the step when an access is presented while rst is asserted: "While rst is asserted KCC accepts no access"
  (70_reset_and_hazards.md R800; 93_implementation_defined.md I13 `stuck`). Safe: no effect of such an access exists (log 4). -/
  | accessWhileRst
  deriving DecidableEq, Repr

/-- Why an instruction has no meaning. -/
inductive Refusal where
  /-- Raised only by an arm of exec whose instruction has no meaning yet. Safe. No arm of this model raises it. -/
  | notModelled (mnemonic : String)
  deriving DecidableEq, Repr

/-- S right after reset (10_state.md R130). -/
def Sponge.reset : Sponge :=
  { lanes := Vector.replicate 25 0#64, rate := 168, var := .v128, pos := 0, ds := 0x00#8, spos := 0 }

/-- SNAP right after reset: "the same values as S above" (10_state.md R130). -/
def Snapshot.reset : Snapshot :=
  { lanes := Vector.replicate 25 0#64, rate := 168, var := .v128, pos := 0, ds := 0x00#8 }

/-- P right after reset (10_state.md R130). -/
def Pending.reset : Pending :=
  { op := .idle, seg := .one, rem1 := 0#64, rem2 := 0#64, a := 0#64, b := 0#64 }

/-- The error latch right after reset (10_state.md R130: every error field 0). -/
def ErrLatch.reset : ErrLatch :=
  { err := false, cause := .noError, src := .noSource, op := 0x00#8 }

/-- The machine right after reset (10_state.md R130, 70_reset_and_hazards.md R800). -/
def State.reset : State :=
  { build := Config.thisHardware
    sponge := Sponge.reset
    snap := Snapshot.reset
    snapValid := false
    pend := Pending.reset
    phase := .idle
    err := ErrLatch.reset
    lenaLo := 0#32
    lenaHi := 0#32
    lenbLo := 0#32
    lenbHi := 0#32
    encLen := 0#4
    encW0 := 0#32
    encW1 := 0#32
    encW2 := 0#32
    errie := false
    rst := false
    inputs := []
    observed := []
    freeCount := 0 }

end Sys2Proof.Machine
end

