-- ==== Sys2Proof/Machine/Flags.lean ====
section
/-! DEFINITION. STATUS and its fields, REM and irq: everything computed from the control state (10_state.md R105, R106,
R112; 44_control.md R606; 60_exceptions.md R701, R710). -/

namespace Sys2Proof.Machine

/-- The PHASE code (10_state.md R106). -/
def Phase.code : Phase → Nat
  | .idle => 0
  | .csAbsorb => 1
  | .kmKeyed => 2
  | .kmAbsorb => 3
  | .csSqueeze => 4
  | .kmSqueeze => 5

/-- The ERR_CAUSE code (60_exceptions.md R701). -/
def ErrCause.code : ErrCause → Nat
  | .noError => 0
  | .illegalCmd => 1
  | .badPhase => 2
  | .protocol => 3
  | .length => 4
  | .noSnapshot => 5

/-- The ERR_SRC code (10_state.md R105). -/
def ErrSrc.code : ErrSrc → Nat
  | .noSource => 0
  | .cmdWrite => 1
  | .dinWrite => 2
  | .doutRead => 3

/-- The VAR bit (10_state.md R105). -/
def Variant.code : Variant → Nat
  | .v128 => 0
  | .v256 => 1

/-- PEND_OP: the opcode of P.op, 0x00 for NONE (10_state.md R123). -/
def PendOp.code : PendOp → Nat
  | .idle => 0x00
  | .csInit => 0x01
  | .absorb => 0x02
  | .kmacInit => 0x04

/-- PEND: a command waits for stream bytes (10_state.md R123). -/
def State.pending (s : State) : Bool := s.pend.op ≠ .idle

/-- A bit as a word. -/
def bitWord (b : Bool) : Word := if b then 1#32 else 0#32

/-- The STATUS word (44_control.md R606). -/
def statusWord (s : State) : Word :=
  BitVec.ofNat 32 s.phase.code
    ||| BitVec.ofNat 32 (Variant.code s.sponge.var) <<< 3
    ||| bitWord s.snapValid <<< 4
    ||| bitWord s.pending <<< 5
    ||| bitWord s.err.err <<< 6
    ||| BitVec.ofNat 32 s.err.cause.code <<< 8
    ||| BitVec.ofNat 32 s.err.src.code <<< 12
    ||| BitVec.ofNat 32 s.pend.op.code <<< 16
    ||| s.err.op.setWidth 32 <<< 24

/-- REM: the low 32 bits of P.rem1 + P.rem2, and 0 when PEND = 0 (10_state.md R112). -/
def remWord (s : State) : Word :=
  if s.pending then (s.pend.rem1 + s.pend.rem2).setWidth 32 else 0#32

/-- irq = ERR & INTEN.ERRIE (60_exceptions.md R710). -/
def irq (s : State) : Bool := s.err.err && s.errie

end Sys2Proof.Machine
end

