-- ==== Sys2Proof/Machine/LengthEncode.lean ====
section
/-! DEFINITION. The length-prefix encodings (40_encoders.md R400 to R406). -/

namespace Sys2Proof.Machine

/-- `minlen(n)`, the table of 40_encoders.md R402. -/
def minlen (n : U64) : Nat :=
  if n.toNat < 2 ^ 8 then 1
  else if n.toNat < 2 ^ 16 then 2
  else if n.toNat < 2 ^ 24 then 3
  else if n.toNat < 2 ^ 32 then 4
  else if n.toNat < 2 ^ 40 then 5
  else if n.toNat < 2 ^ 48 then 6
  else if n.toNat < 2 ^ 56 then 7
  else 8

/-- The low L bytes of n, most significant first: [ n[8L-1:8L-8], ..., n[7:0] ] (40_encoders.md R400). -/
def bigEndianBytes (n : U64) : Nat → List Byte
  | 0 => []
  | L + 1 => n.extractLsb' (8 * L) 8 :: bigEndianBytes n L

/-- The value bytes of both encodings (40_encoders.md R400, R401). -/
def valueBytes (n : U64) : List Byte := bigEndianBytes n (minlen n)

/-- The length byte of both encodings (40_encoders.md R400, R401). -/
def lengthByte (n : U64) : Byte := BitVec.ofNat 8 (minlen n)

/-- `left_encode(n) = [L] || V` (40_encoders.md R400). -/
def leftEncode (n : U64) : List Byte := lengthByte n :: valueBytes n

/-- `right_encode(n) = V || [L]` (40_encoders.md R401). -/
def rightEncode (n : U64) : List Byte := valueBytes n ++ [lengthByte n]

/-- The bit count 8·len of a byte count; it fits 64 bits below 2^61 (30_encoding.md R306). -/
def bitCount (len : U64) : U64 := 8#64 * len

/-- The rate prefix left_encode(w), w the rate in BYTES (40_encoders.md R405, 90_conflicts.md C2). -/
def ratePrefix (rate : Nat) : List Byte := leftEncode (BitVec.ofNat 64 rate)

/-- The finalize suffix right_encode(0) (40_encoders.md R406). -/
def finalSuffix : List Byte := rightEncode 0#64

/-- The bytes of "KMAC", the function name N (00_scope.md R12, R15; 90_conflicts.md C4). -/
def functionName : List Byte := [0x4B#8, 0x4D#8, 0x41#8, 0x43#8]

end Sys2Proof.Machine
end

