-- ==== Sys2Proof/Machine/Operands.lean ====
section
/-! DEFINITION. Operands of commands (30_encoding.md R305, R306) and the byte order of data words (20_memory.md R204). -/

namespace Sys2Proof.Machine

/-- LENA = LENA_HI << 32 | LENA_LO (10_state.md R107). -/
def State.lena (s : State) : U64 := s.lenaHi ++ s.lenaLo

/-- LENB = LENB_HI << 32 | LENB_LO (10_state.md R107). -/
def State.lenb (s : State) : U64 := s.lenbHi ++ s.lenbLo

/-- Bits [8k+7:8k] of a data word: the byte with the k-th lowest index (20_memory.md R204). -/
def wordByte (w : Word) (k : Nat) : Byte := w.extractLsb' (8 * k) 8

/-- The four bytes of a data word, first byte first (20_memory.md R204). -/
def wordBytes (w : Word) : List Byte := [wordByte w 0, wordByte w 1, wordByte w 2, wordByte w 3]

/-- The little-endian packing of at most four bytes, missing high bytes zero (20_memory.md R204, 30_encoding.md R313). -/
def packWord (B : List Byte) : Word :=
  B.getD 3 0#8 ++ B.getD 2 0#8 ++ B.getD 1 0#8 ++ B.getD 0 0#8

/-- A length whose bit count does not fit a u64 (30_encoding.md R306). -/
def lengthTooLong (len : U64) : Bool := 2 ^ 61 ≤ len.toNat

end Sys2Proof.Machine
end

