-- ==== Sys2Proof/Machine/Keccak.lean ====
section
/-! DEFINITION. The permutation Keccak-f[1600] (41_keccak_f.md). -/

namespace Sys2Proof.Machine

/-- A left rotation of a lane (00_scope.md R11). -/
def rotl64 (v : Lane) (n : Nat) : Lane := v.rotateLeft n

/-- Lane A[x][y] (41_keccak_f.md R450, R451). -/
def lane (A : Lanes) (x y : Fin 5) : Lane :=
  A[x.val + 5 * y.val]'(by omega)

/-- The state whose lane A[x][y] is `g x y`, its 25 lanes in the order of 41_keccak_f.md R451. -/
def mkLanes (g : Fin 5 → Fin 5 → Lane) : Lanes :=
  #v[g 0 0, g 1 0, g 2 0, g 3 0, g 4 0,
     g 0 1, g 1 1, g 2 1, g 3 1, g 4 1,
     g 0 2, g 1 2, g 2 2, g 3 2, g 4 2,
     g 0 3, g 1 3, g 2 3, g 3 3, g 4 3,
     g 0 4, g 1 4, g 2 4, g 3 4, g 4 4]

/-- C[x] of 41_keccak_f.md R452. -/
def thetaC (A : Lanes) (x : Fin 5) : Lane :=
  lane A x 0 ^^^ lane A x 1 ^^^ lane A x 2 ^^^ lane A x 3 ^^^ lane A x 4

/-- D[x] of 41_keccak_f.md R452; index arithmetic on `Fin 5` is modulo 5. -/
def thetaD (A : Lanes) (x : Fin 5) : Lane :=
  thetaC A (x + 4) ^^^ rotl64 (thetaC A (x + 1)) 1

/-- θ (41_keccak_f.md R452). -/
def theta (A : Lanes) : Lanes :=
  mkLanes fun x y => lane A x y ^^^ thetaD A x

/-- The offsets r[x][y] of 41_keccak_f.md R453, one row for each x. -/
def rhoOffset (x y : Fin 5) : Nat :=
  #v[#v[ 0, 36,  3, 41, 18],
     #v[ 1, 44, 10, 45,  2],
     #v[62,  6, 43, 15, 61],
     #v[28, 55, 25, 21, 56],
     #v[27, 20, 39,  8, 14]][x][y]

/-- ρ (41_keccak_f.md R453). -/
def rho (A : Lanes) : Lanes :=
  mkLanes fun x y => rotl64 (lane A x y) (rhoOffset x y)

/-- π (41_keccak_f.md R454). -/
def pi (A : Lanes) : Lanes :=
  mkLanes fun x y => lane A (x + 3 * y) x

/-- χ (41_keccak_f.md R455). -/
def chi (A : Lanes) : Lanes :=
  mkLanes fun x y => lane A x y ^^^ (~~~(lane A (x + 1) y) &&& lane A (x + 2) y)

/-- The round constants RC[0..23] (41_keccak_f.md R457). -/
def roundConstants : List Lane :=
  [0x0000000000000001, 0x0000000000008082, 0x800000000000808A, 0x8000000080008000,
   0x000000000000808B, 0x0000000080000001, 0x8000000080008081, 0x8000000000008009]
  ++ [0x000000000000008A, 0x0000000000000088, 0x0000000080008009, 0x000000008000000A,
   0x000000008000808B, 0x800000000000008B, 0x8000000000008089, 0x8000000000008003]
  ++ [0x8000000000008002, 0x8000000000000080, 0x000000000000800A, 0x800000008000000A,
   0x8000000080008081, 0x8000000000008080, 0x0000000080000001, 0x8000000080008008]

/-- RC[ir] (41_keccak_f.md R457); rounds are 0 to 23. -/
def roundConstant (ir : Nat) : Lane := roundConstants.getD ir 0

/-- ι of round ir (41_keccak_f.md R456). -/
def iota (A : Lanes) (ir : Nat) : Lanes :=
  mkLanes fun x y => if x = 0 ∧ y = 0 then lane A x y ^^^ roundConstant ir else lane A x y

/-- One round of f (41_keccak_f.md R459). -/
def keccakRound (A : Lanes) (ir : Nat) : Lanes := iota (chi (pi (rho (theta A)))) ir

/-- Keccak-f[1600]: rounds 0 to 23 in order (41_keccak_f.md R459). -/
def keccakF (A : Lanes) : Lanes := (List.range 24).foldl keccakRound A

end Sys2Proof.Machine
end

