-- ==== Sys2Proof/Machine/Sponge.lean ====
section
/-! DEFINITION. The bytes of the Keccak state and the sponge primitives (41_keccak_f.md R451, 42_sponge_cshake.md R500 to R507). -/

namespace Sys2Proof.Machine

/-- Lane number l of the state, in the byte order of 41_keccak_f.md R451. There are 25 lanes; a number past them, which no
reachable position gives, reads 0 (log 10). -/
def laneAt (A : Lanes) (l : Nat) : Lane := A[l]?.getD 0#64

/-- `getbyte(A, i)`: bits [8(i mod 8)+7 : 8(i mod 8)] of lane i div 8 (41_keccak_f.md R451). -/
def getByte (A : Lanes) (i : Nat) : Byte := (laneAt A (i / 8)).extractLsb' (8 * (i % 8)) 8

/-- `xorbyte(A, i, v)` (41_keccak_f.md R451). A byte number past the state, which no reachable position gives, changes
nothing (log 10). -/
def xorByte (A : Lanes) (i : Nat) (v : Byte) : Lanes :=
  A.setIfInBounds (i / 8) (laneAt A (i / 8) ^^^ (v.setWidth 64 <<< (8 * (i % 8))))

/-- The rate of a variant in bytes (00_scope.md R2, 30_encoding.md R302). -/
def rateOf : Variant → Nat
  | .v128 => 168
  | .v256 => 136

/-- `sponge_clear(S, V)` (42_sponge_cshake.md R503). -/
def spongeClear (v : Variant) : Sponge :=
  { lanes := Vector.replicate 25 0#64, rate := rateOf v, var := v, pos := 0, ds := 0x00#8, spos := 0 }

/-- `S.A <- f(S.A); S.pos <- 0`: absorb the block as it stands. -/
def permuteBlock (S : Sponge) : Sponge := { S with lanes := keccakF S.lanes, pos := 0 }

/-- `absorb_byte(S, v)` (42_sponge_cshake.md R501). -/
def absorbByte (S : Sponge) (v : Byte) : Sponge :=
  let S' : Sponge := { S with lanes := xorByte S.lanes S.pos v, pos := S.pos + 1 }
  if S'.pos = S'.rate then permuteBlock S' else S'

/-- `absorb(S, B)` (42_sponge_cshake.md R500). -/
def absorb (S : Sponge) (B : List Byte) : Sponge := B.foldl absorbByte S

/-- `pad_std(S)` (42_sponge_cshake.md R505). -/
def padStd (S : Sponge) : Sponge := if S.pos ≠ 0 then permuteBlock S else S

/-- `final_pad(S)` (42_sponge_cshake.md R506). -/
def finalPad (S : Sponge) : Sponge :=
  let A := xorByte (xorByte S.lanes S.pos S.ds) (S.rate - 1) 0x80#8
  { S with lanes := keccakF A, pos := 0, spos := 0 }

/-- The first two lines of `squeeze_byte`: a used-up block is permuted when its successor's first byte is needed
(42_sponge_cshake.md R507). -/
def refillBlock (S : Sponge) : Sponge :=
  if S.spos = S.rate then { S with lanes := keccakF S.lanes, spos := 0 } else S

/-- `squeeze_byte(S)`: the byte and the sponge after it (42_sponge_cshake.md R507). -/
def squeezeByte (S : Sponge) : Byte × Sponge :=
  let S' := refillBlock S
  (getByte S'.lanes S'.spos, { S' with spos := S'.spos + 1 })

/-- `n` output bytes in order, and the sponge after them (42_sponge_cshake.md R507, R524). -/
def squeezeBytes : Nat → Sponge → List Byte × Sponge
  | 0, S => ([], S)
  | n + 1, S =>
    let r := squeezeByte S
    let rest := squeezeBytes n r.2
    (r.1 :: rest.1, rest.2)

end Sys2Proof.Machine
end

