-- ==== Sys2Proof/Machine/Ops.lean ====
section
/-! DEFINITION. The operations every command shares: recording an error, the check sequence, the resets, the snapshot, the
encoder registers. KCC has no memory (20_memory.md R200), so there is no operation over one. -/

namespace Sys2Proof.Machine

/-- The outcomes of this machine. -/
abbrev Out := Host.Outcome State Fault Refusal

/-- `raise Error(cause, src, op)`: the latch, and nothing else (60_exceptions.md R703). This is KCC's only exception entry;
it has no vector and no saved state (R700, R706). -/
def raiseError (cause : ErrCause) (src : ErrSrc) (op : Byte) (s : State) : State :=
  { s with err := { err := true, cause := cause, src := src, op := op } }

/-- Every piece of the block's state at its reset value (10_state.md R130, 44_control.md R601). This is the only return from
an error (60_exceptions.md R705). The build parameters stand (70_reset_and_hazards.md R802); rst, the inputs to come and
what the host has observed are not the block's. -/
def clearBlock (s : State) : State :=
  { State.reset with
    build := s.build
    rst := s.rst
    inputs := s.inputs
    observed := s.observed
    freeCount := s.freeCount }

/-- The phases in which a command is allowed (60_exceptions.md R702; SOFT_RESET in every phase, 44_control.md R601). -/
def phaseAllowed : Instr → Phase → Bool
  | .nop, _ => true
  | .encLeft, _ => true
  | .encRight, _ => true
  | .csInit _, _ => true
  | .kmacInit _, _ => true
  | .softReset, _ => true
  | .absorb, p => p = .csAbsorb || p = .kmKeyed || p = .kmAbsorb
  | .csFinal, p => p = .csAbsorb
  | .kmacFinal, p => p = .kmKeyed || p = .kmAbsorb
  | .kmacRestore, p => p = .kmKeyed || p = .kmAbsorb || p = .kmSqueeze

/-- Step 6 of 60_exceptions.md R702: KMAC_RESTORE needs a snapshot. -/
def snapshotMissing (i : Instr) (s : State) : Bool :=
  match i with
  | .kmacRestore => !s.snapValid
  | .nop | .csInit _ | .absorb | .csFinal | .kmacInit _ | .kmacFinal | .encLeft | .encRight | .softReset => false

/-- Step 7 of 60_exceptions.md R702: an initialization's lengths must be below 2^61. -/
def lengthError (i : Instr) (s : State) : Bool :=
  match i with
  | .csInit _ | .kmacInit _ => lengthTooLong s.lena || lengthTooLong s.lenb
  | .nop | .absorb | .csFinal | .kmacFinal | .kmacRestore | .encLeft | .encRight | .softReset => false

/-- The first check of steps 4 to 7 of 60_exceptions.md R702 that a legal command fails. -/
def failedCheck (i : Instr) (s : State) : Option ErrCause :=
  if s.pending then some .protocol
  else if !phaseAllowed i s.phase then some .badPhase
  else if snapshotMissing i s then some .noSnapshot
  else if lengthError i s then some .length
  else none

/-- The check sequence of 60_exceptions.md R702 for a legal command other than SOFT_RESET: ignored while ERR = 1 (step 2),
then the first failing check is recorded with ERR_OP = w[7:0] (steps 4 to 7), else the command is performed (step 8). -/
def checked (i : Instr) (perform : State → State) (s : State) : Out :=
  if s.err.err then .next s
  else
    match failedCheck i s with
    | some cause => .next (raiseError cause .cmdWrite i.opcode s)
    | none => .next (perform s)

/-- `snap_clear()` (43_kmac.md R563). -/
def snapClear (s : State) : State :=
  { s with snap := Snapshot.reset, snapValid := false }

/-- The snapshot of a sponge: its fields A, R, var, pos and ds (10_state.md R122, 43_kmac.md R556). -/
def snapshotOf (S : Sponge) : Snapshot :=
  { lanes := S.lanes, rate := S.rate, var := S.var, pos := S.pos, ds := S.ds }

/-- The sponge a snapshot restores, with spos 0 (43_kmac.md R562). -/
def restoredSponge (p : Snapshot) : Sponge :=
  { lanes := p.lanes, rate := p.rate, var := p.var, pos := p.pos, ds := p.ds, spos := 0 }

/-- The encoder registers hold the byte string E: ENC_LEN = |E|, byte k of E in ENC_W(k div 4), the rest zero
(10_state.md R110, 40_encoders.md R410). -/
def setEncoding (E : List Byte) (s : State) : State :=
  { s with
    encLen := BitVec.ofNat 4 E.length
    encW0 := packWord E
    encW1 := packWord (E.drop 4)
    encW2 := packWord (E.drop 8) }

end Sys2Proof.Machine
end

