-- ==== Sys2Proof/Machine/Stream.lean ====
section
/-! DEFINITION. The stream of a command: the segment-end actions and advance() (42_sponge_cshake.md R509, R513; 43_kmac.md
R552, R555, R556), and the bytes DIN delivers (42_sponge_cshake.md R520). -/

namespace Sys2Proof.Machine

/-- The sponge is replaced by `f` of it. -/
def onSponge (f : Sponge → Sponge) (s : State) : State := { s with sponge := f s.sponge }

/-- `keypad(S)` (43_kmac.md R555). -/
def keypad (mode : KeypadMode) (S : Sponge) : Sponge :=
  match mode with
  | .zeroBlock => permuteBlock S
  | .noBlock => padStd S

/-- End of segment 1 of CS_INIT, after N: `absorb(S, left_encode(8b))` (42_sponge_cshake.md R513 (a)). -/
def csInitEnd1 (s : State) : State :=
  onSponge (fun S => absorb S (leftEncode (bitCount s.pend.b))) s

/-- End of segment 2 of CS_INIT, after S: the prefix is closed (42_sponge_cshake.md R513 (b)). -/
def csInitEnd2 (s : State) : State :=
  { onSponge padStd s with phase := .csAbsorb }

/-- End of segment 1 of KMAC_INIT, after S (43_kmac.md R552). -/
def kmacInitEnd1 (s : State) : State :=
  onSponge (fun S => absorb (padStd S) (ratePrefix S.rate ++ leftEncode (bitCount s.pend.a))) s

/-- `if RESETTABLE = 1: SNAP <- S; SNAP_VALID <- 1` (43_kmac.md R556). -/
def takeSnapshot (s : State) : State :=
  if s.build.resettable then { s with snap := snapshotOf s.sponge, snapValid := true } else s

/-- End of segment 2 of KMAC_INIT, after K (43_kmac.md R556). -/
def kmacInitEnd2 (s : State) : State :=
  { takeSnapshot (onSponge (keypad s.build.keypadOnBoundary) s) with phase := .kmKeyed }

/-- `end_of_segment_1(P.op)` (42_sponge_cshake.md R509). -/
def endOfSegment1 (s : State) : State :=
  match s.pend.op with
  | .csInit => csInitEnd1 s
  | .kmacInit => kmacInitEnd1 s
  | .absorb => s
  | .idle => s

/-- `end_of_segment_2(P.op)` (42_sponge_cshake.md R509). -/
def endOfSegment2 (s : State) : State :=
  match s.pend.op with
  | .csInit => csInitEnd2 s
  | .kmacInit => kmacInitEnd2 s
  | .absorb => s
  | .idle => s

/-- The first turn of advance(): segment 1 ends when its last byte is in (42_sponge_cshake.md R509). -/
def advance1 (s : State) : State :=
  if s.pend.op ≠ .idle ∧ s.pend.seg = .one ∧ s.pend.rem1 = 0#64 then
    let s' := endOfSegment1 s
    { s' with pend := { s'.pend with seg := .two } }
  else s

/-- The second turn of advance(): segment 2 ends when its last byte is in (42_sponge_cshake.md R509). -/
def advance2 (s : State) : State :=
  if s.pend.op ≠ .idle ∧ s.pend.seg = .two ∧ s.pend.rem2 = 0#64 then
    let s' := endOfSegment2 s
    { s' with pend := { s'.pend with op := .idle } }
  else s

/-- `advance()` (42_sponge_cshake.md R509). DEDUCED (log 12): the loop runs its first branch at most once and its second
at most once after it, since P.seg only goes from 1 to 2 and P.op then to NONE; so it is these two turns in order. -/
def advance (s : State) : State := advance2 (advance1 s)

/-- One fewer byte is due in the current segment (42_sponge_cshake.md R520). -/
def countByte (P : Pending) : Pending :=
  match P.seg with
  | .one => { P with rem1 := P.rem1 - 1#64 }
  | .two => { P with rem2 := P.rem2 - 1#64 }

/-- One stream byte is consumed (42_sponge_cshake.md R520, the body of the loop). -/
def consumeByte (v : Byte) (s : State) : State :=
  advance { s with sponge := absorbByte s.sponge v, pend := countByte s.pend }

/-- The bytes of a DIN word in order, as long as a stream is pending; the rest are ignored (42_sponge_cshake.md R520). -/
def consumeBytes : List Byte → State → State
  | [], s => s
  | v :: vs, s => if s.pend.op ≠ .idle then consumeBytes vs (consumeByte v s) else s

end Sys2Proof.Machine
end

