-- ==== Sys2Proof/Machine/CShake.lean ====
section
/-! DEFINITION. The cSHAKE commands (42_sponge_cshake.md R510, R515, R523). -/

namespace Sys2Proof.Machine

/-- The effect of CS_INIT (42_sponge_cshake.md R510). With both lengths 0 it starts SHAKE, with no prefix (R512). -/
def csInitEffect (v : Variant) (s : State) : State :=
  let a := s.lena
  let b := s.lenb
  let s1 := { snapClear s with sponge := spongeClear v }
  if a = 0#64 ∧ b = 0#64 then
    { s1 with sponge := { s1.sponge with ds := 0x1F#8 }, phase := .csAbsorb }
  else
    let S := { s1.sponge with ds := 0x04#8 }
    advance
      { s1 with
        phase := .idle
        sponge := absorb S (ratePrefix S.rate ++ leftEncode (bitCount a))
        pend := { op := .csInit, seg := .one, rem1 := a, rem2 := b, a := a, b := b } }

/-- CS_INIT (42_sponge_cshake.md R510). -/
def execCsInit (v : Variant) (s : State) : Out := checked (.csInit v) (csInitEffect v) s

/-- The effect of ABSORB (42_sponge_cshake.md R515). -/
def absorbEffect (s : State) : State :=
  advance
    { s with
      phase := if s.phase = .kmKeyed then .kmAbsorb else s.phase
      pend := { op := .absorb, seg := .one, rem1 := s.lena, rem2 := 0#64, a := s.lena, b := s.lenb } }

/-- ABSORB (42_sponge_cshake.md R515). -/
def execAbsorb (s : State) : Out := checked .absorb absorbEffect s

/-- The effect of CS_FINAL (42_sponge_cshake.md R523). -/
def csFinalEffect (s : State) : State := { s with sponge := finalPad s.sponge, phase := .csSqueeze }

/-- CS_FINAL (42_sponge_cshake.md R523). -/
def execCsFinal (s : State) : Out := checked .csFinal csFinalEffect s

end Sys2Proof.Machine
end

