-- ==== Sys2Proof/Machine/Control.lean ====
section
/-! DEFINITION. The control commands (44_control.md R600, R601). -/

namespace Sys2Proof.Machine

/-- NOP: no effect once the checks pass (44_control.md R600). -/
def execNop (s : State) : Out := checked .nop id s

/-- SOFT_RESET: obeyed before every check, in every state (44_control.md R601, 60_exceptions.md R702 step 1). -/
def execSoftReset (s : State) : Out := .next (clearBlock s)

end Sys2Proof.Machine
end

