-- ==== Sys2Proof/Machine/Encoder.lean ====
section
/-! DEFINITION. The encoder commands (40_encoders.md R410, R411). -/

namespace Sys2Proof.Machine

/-- The effect of ENC_LEFT: the encoder registers hold left_encode(LENA) (40_encoders.md R410). -/
def encLeftEffect (s : State) : State := setEncoding (leftEncode s.lena) s

/-- ENC_LEFT (40_encoders.md R410). -/
def execEncLeft (s : State) : Out := checked .encLeft encLeftEffect s

/-- The effect of ENC_RIGHT: the encoder registers hold right_encode(LENA) (40_encoders.md R411). -/
def encRightEffect (s : State) : State := setEncoding (rightEncode s.lena) s

/-- ENC_RIGHT (40_encoders.md R411). -/
def execEncRight (s : State) : Out := checked .encRight encRightEffect s

end Sys2Proof.Machine
end

