-- ==== Sys2Proof/Machine/Kmac.lean ====
section
/-! DEFINITION. The KMAC commands (43_kmac.md R550, R560, R562). -/

namespace Sys2Proof.Machine

/-- What KMAC_INIT absorbs before the customization: the rate prefix, encode_string("KMAC") and left_encode(8b)
(43_kmac.md R550, R551). -/
def kmacPrefix (rate : Nat) (b : U64) : List Byte :=
  ratePrefix rate ++ leftEncode 32#64 ++ functionName ++ leftEncode (bitCount b)

/-- The effect of KMAC_INIT (43_kmac.md R550). -/
def kmacInitEffect (v : Variant) (s : State) : State :=
  let a := s.lena
  let b := s.lenb
  let S := { spongeClear v with ds := 0x04#8 }
  advance
    { snapClear s with
      phase := .idle
      sponge := absorb S (kmacPrefix S.rate b)
      pend := { op := .kmacInit, seg := .one, rem1 := b, rem2 := a, a := a, b := b } }

/-- KMAC_INIT (43_kmac.md R550). -/
def execKmacInit (v : Variant) (s : State) : Out := checked (.kmacInit v) (kmacInitEffect v) s

/-- The effect of KMAC_FINAL (43_kmac.md R560). -/
def kmacFinalEffect (s : State) : State :=
  { s with sponge := finalPad (absorb s.sponge finalSuffix), phase := .kmSqueeze }

/-- KMAC_FINAL (43_kmac.md R560). -/
def execKmacFinal (s : State) : Out := checked .kmacFinal kmacFinalEffect s

/-- The effect of KMAC_RESTORE (43_kmac.md R562). -/
def kmacRestoreEffect (s : State) : State :=
  { s with sponge := restoredSponge s.snap, phase := .kmKeyed }

/-- KMAC_RESTORE (43_kmac.md R562). -/
def execKmacRestore (s : State) : Out := checked .kmacRestore kmacRestoreEffect s

end Sys2Proof.Machine
end

