-- ==== Sys2Proof/Machine/Dispatch.lean ====
section
/-! DEFINITION. The meaning of a legal command word when it is written to CMD: one arm for each constructor of Instr. -/

namespace Sys2Proof.Machine

def exec (i : Instr) (s : State) : Host.Outcome State Fault Refusal :=
  match i with
  | .nop => Sys2Proof.Machine.execNop s
  | .csInit v => Sys2Proof.Machine.execCsInit v s
  | .absorb => Sys2Proof.Machine.execAbsorb s
  | .csFinal => Sys2Proof.Machine.execCsFinal s
  | .kmacInit v => Sys2Proof.Machine.execKmacInit v s
  | .kmacFinal => Sys2Proof.Machine.execKmacFinal s
  | .kmacRestore => Sys2Proof.Machine.execKmacRestore s
  | .encLeft => Sys2Proof.Machine.execEncLeft s
  | .encRight => Sys2Proof.Machine.execEncRight s
  | .softReset => Sys2Proof.Machine.execSoftReset s

end Sys2Proof.Machine
end

