-- ==== Sys2Proof/Machine/Registers.lean ====
section
/-! DEFINITION. The register map and every register access other than a CMD write (10_state.md R102 to R112, 20_memory.md
R202, 42_sponge_cshake.md R520 to R525, 44_control.md R602 to R605). -/

namespace Sys2Proof.Machine

/-- The sixteen words of the window, in offset order (10_state.md R102). -/
inductive Reg where
  | id | hwcfg | cmd | status | lenaLo | lenaHi | lenbLo | lenbHi
  | din | dout | encLen | encW0 | encW1 | encW2 | inten | rem
  deriving DecidableEq, Repr

/-- The word number offset/4 of a register (10_state.md R102). -/
def Reg.index : Reg → BitVec 4
  | .id => 0x0
  | .hwcfg => 0x1
  | .cmd => 0x2
  | .status => 0x3
  | .lenaLo => 0x4
  | .lenaHi => 0x5
  | .lenbLo => 0x6
  | .lenbHi => 0x7
  | .din => 0x8
  | .dout => 0x9
  | .encLen => 0xA
  | .encW0 => 0xB
  | .encW1 => 0xC
  | .encW2 => 0xD
  | .inten => 0xE
  | .rem => 0xF

/-- The register at a word number: every word of the window is mapped (10_state.md R102, 20_memory.md R208). -/
def regAt (n : BitVec 4) : Reg :=
  match n.toNat with
  | 0 => .id
  | 1 => .hwcfg
  | 2 => .cmd
  | 3 => .status
  | 4 => .lenaLo
  | 5 => .lenaHi
  | 6 => .lenbLo
  | 7 => .lenbHi
  | 8 => .din
  | 9 => .dout
  | 10 => .encLen
  | 11 => .encW0
  | 12 => .encW1
  | 13 => .encW2
  | 14 => .inten
  | _ => .rem

/-- The register a byte address selects: (addr - KCC_BASE)[5:2] (20_memory.md R202). Every other bit of the address is
ignored here: bits [1:0] by R202, the bits above 5 because their decoding is the platform's. -/
def selectReg (base addr : Address) : Reg := regAt ((addr - base).extractLsb' 2 4)

/-- The aligned byte address of a register's word (10_state.md R102). -/
def regAddr (base : Address) (r : Reg) : Address := base + (r.index.setWidth 64 <<< 2)

/-- ID reads 0x4B4D4143 always (10_state.md R103). -/
def idWord : Word := 0x4B4D4143

/-- HWCFG: bit 0 = RESETTABLE, bit 1 = ZERO_BLOCK, the rest 0 (10_state.md R103). -/
def hwcfgWord (p : BuildParams) : Word :=
  bitWord p.resettable ||| bitWord (p.keypadOnBoundary = .zeroBlock) <<< 1

/-- The phases in which output is available (42_sponge_cshake.md R524). -/
def squeezing (p : Phase) : Bool := p = .csSqueeze || p = .kmSqueeze

/-- A read of DOUT. While halted it returns 0 and squeezes nothing (60_exceptions.md R704). In a squeeze phase it returns
the next four output bytes (42_sponge_cshake.md R524). Elsewhere it returns 0 and raises BAD_PHASE (R525). -/
def readDout (s : State) : Word × State :=
  if s.err.err then (0#32, s)
  else if squeezing s.phase then
    let r := squeezeBytes 4 s.sponge
    (packWord r.1, { s with sponge := r.2 })
  else (0#32, raiseError .badPhase .doutRead 0x00#8 s)

/-- A read of a register: the value and the state after it (44_control.md R604; DOUT as above). -/
def readReg (r : Reg) (s : State) : Word × State :=
  match r with
  | .id => (idWord, s)
  | .hwcfg => (hwcfgWord s.build, s)
  | .cmd => (0#32, s)
  | .status => (statusWord s, s)
  | .lenaLo => (s.lenaLo, s)
  | .lenaHi => (s.lenaHi, s)
  | .lenbLo => (s.lenbLo, s)
  | .lenbHi => (s.lenbHi, s)
  | .din => (0#32, s)
  | .dout => readDout s
  | .encLen => (s.encLen.setWidth 32, s)
  | .encW0 => (s.encW0, s)
  | .encW1 => (s.encW1, s)
  | .encW2 => (s.encW2, s)
  | .inten => (bitWord s.errie, s)
  | .rem => (remWord s, s)

/-- A write of DIN: ignored while halted; PROTOCOL when no stream is pending; else its bytes are stream bytes, in
little-endian order (42_sponge_cshake.md R520, 60_exceptions.md R702, R704). -/
def writeDin (w : Word) (s : State) : State :=
  if s.err.err then s
  else if s.pending then consumeBytes (wordBytes w) s
  else raiseError .protocol .dinWrite 0x00#8 s

end Sys2Proof.Machine
end

