-- ==== Sys2Proof/Machine/Bus.lean ====
section
/-! DEFINITION. What the block does on one event from outside: a host access or an edge of rst (20_memory.md R201 to R209,
60_exceptions.md R702, 70_reset_and_hazards.md R800, R803). -/

namespace Sys2Proof.Machine

/-- A write of CMD issues the command word (10_state.md R104). A legal word is `exec` of its instruction, which holds the
other steps of 60_exceptions.md R702. An illegal word is ignored while ERR = 1 (step 2) and raises ILLEGAL_CMD otherwise
(step 3). -/
def writeCmd (w : Word) (s : State) : Out :=
  match decode w with
  | .ok i => exec i s
  | .error _ =>
    if s.err.err then .next s
    else .next (raiseError .illegalCmd .cmdWrite (w.extractLsb' 0 8) s)

/-- A write of a register (44_control.md R602, R603, R605; CMD and DIN as above). -/
def writeReg (r : Reg) (v : Word) (s : State) : Out :=
  match r with
  | .cmd => writeCmd v s
  | .din => .next (writeDin v s)
  | .lenaLo => .next { s with lenaLo := v }
  | .lenaHi => .next { s with lenaHi := v }
  | .lenbLo => .next { s with lenbLo := v }
  | .lenbHi => .next { s with lenbHi := v }
  | .inten => .next { s with errie := v.getLsbD 0 }
  | .id | .hwcfg | .status | .dout | .encLen | .encW0 | .encW1 | .encW2 | .rem => .next s

/-- The state with other events still to come (log 1). -/
def State.withInputs (s : State) (es : List HostEvent) : State := { s with inputs := es }

/-- The host's observation is recorded (20_memory.md R215; log 3). -/
def observe (o : Observation) (s : State) : State := { s with observed := s.observed ++ [o] }

/-- A host access as one atomic transition (20_memory.md R206). Strobes and the low address bits have no part in it
(R202, R203). -/
def performAccess (a : BusAccess) (s : State) : Out :=
  match a with
  | .write addr _ data =>
    match writeReg (selectReg s.build.kccBase addr) data s with
    | .next t => .next (observe (.wrote (irq t)) t)
    | .fault r => .fault r
    | .refused r => .refused r
  | .read addr _ =>
    let r := readReg (selectReg s.build.kccBase addr) s
    .next (observe (.returned r.1 (irq r.2)) r.2)

/-- rst cuts an access off: no partial effect of it survives; a read returns a free value (70_reset_and_hazards.md R803,
93_implementation_defined.md I14). -/
def abandonAccess (a : BusAccess) (s : State) : State :=
  match a with
  | .write _ _ _ => observe .abandonedWrite s
  | .read _ _ =>
    { observe (.abandonedRead (Config.abandonedRead s.freeCount)) s with freeCount := s.freeCount + 1 }

/-- rst is asserted. The block's state takes its reset values already here; since no access is accepted before rst is
released, the instant at which it takes them cannot be observed (log 4). -/
def assertReset (s : State) : State := { clearBlock s with rst := true }

/-- rst is released: "When rst is released every piece of state holds the value of 10_state.md rule R130"
(70_reset_and_hazards.md R800). Released when it was not asserted, it is no edge. -/
def releaseReset (s : State) : State := if s.rst then { clearBlock s with rst := false } else s

/-- One event from outside. While rst is asserted no access is accepted (70_reset_and_hazards.md R800). -/
def handleEvent (e : HostEvent) (s : State) : Out :=
  match e with
  | .access a => if s.rst then .fault .accessWhileRst else performAccess a s
  | .assertRst => .next (assertReset s)
  | .assertRstDuring a => if s.rst then .fault .accessWhileRst else .next (assertReset (abandonAccess a s))
  | .releaseRst => .next (releaseReset s)

/-- The bus access that writes a word to CMD (10_state.md R102, R104). -/
def cmdWriteEvent (base : Address) (w : Word) : HostEvent :=
  .access (.write (regAddr base .cmd) 0xF#4 w)

end Sys2Proof.Machine
end

