-- ==== Sys2Proof/Machine/Step.lean ====
section
/-! DEFINITION. One step of the machine, and how the next command is placed before it. -/

namespace Sys2Proof.Machine

/-- One step: the next thing the outside does (20_memory.md R209). With nothing to come, nothing happens: "Nothing advances
except by a host access" (10_state.md R101; log 1). -/
def step (s : State) : Host.Outcome State Fault Refusal :=
  match s.inputs with
  | [] => .next s
  | e :: rest => handleEvent e (s.withInputs rest)

/-- The word written to CMD by the very next access (log 2): KCC fetches nothing, a command runs when the host writes it
(10_state.md R101, R104). rst is released, since no access is accepted while it is asserted (70_reset_and_hazards.md R800). -/
def State.withFetchWord (s : State) (nbits w : Nat) : State :=
  { s with
    rst := false
    inputs := cmdWriteEvent s.build.kccBase (BitVec.ofNat 32 (w % 2 ^ nbits)) :: s.inputs }

end Sys2Proof.Machine
end

