-- ==== Sys2Proof/Machine/Pseudo.lean ====
section
/-! DEFINITION. The pseudo-instructions of 30_encoding.md R313, each as the host accesses it expands to, and the output
bytes a host takes from what it read (42_sponge_cshake.md R526). -/

namespace Sys2Proof.Machine

/-- `W <REG>, v`: an aligned 32-bit write (30_encoding.md R312). -/
def writeEvent (base : Address) (r : Reg) (v : Word) : HostEvent :=
  .access (.write (regAddr base r) 0xF#4 v)

/-- `R <REG>`: an aligned 32-bit read (30_encoding.md R312). -/
def readEvent (base : Address) (r : Reg) : HostEvent :=
  .access (.read (regAddr base r) 0xF#4)

/-- `CMD <MNEMONIC>` (30_encoding.md R312). -/
def cmdEvent (base : Address) (i : Instr) : HostEvent := writeEvent base .cmd (encode i)

/-- `SETA n` (30_encoding.md R313). -/
def setA (base : Address) (n : U64) : List HostEvent :=
  [writeEvent base .lenaLo (n.extractLsb' 0 32), writeEvent base .lenaHi (n.extractLsb' 32 32)]

/-- `SETB n` (30_encoding.md R313). -/
def setB (base : Address) (n : U64) : List HostEvent :=
  [writeEvent base .lenbLo (n.extractLsb' 0 32), writeEvent base .lenbHi (n.extractLsb' 32 32)]

/-- A byte string as DIN words: four bytes a word, the last word's missing bytes zero (30_encoding.md R313). -/
def packWords : List Byte → List Word
  | [] => []
  | b0 :: b1 :: b2 :: b3 :: rest => packWord [b0, b1, b2, b3] :: packWords rest
  | b0 :: rest => [packWord (b0 :: rest)]

/-- `FEED B` (30_encoding.md R313). -/
def feed (base : Address) (B : List Byte) : List HostEvent := (packWords B).map (writeEvent base .din)

/-- `SQUEEZE L`: ceil(L/4) reads of DOUT (30_encoding.md R313). -/
def squeeze (base : Address) (L : Nat) : List HostEvent := List.replicate ((L + 3) / 4) (readEvent base .dout)

/-- The length of a byte string as an operand (30_encoding.md R305). -/
def lengthOperand (B : List Byte) : U64 := BitVec.ofNat 64 B.length

/-- Set LENA, issue ABSORB, feed the message (the middle of each pseudo-instruction of 30_encoding.md R313). -/
def absorbMessage (base : Address) (X : List Byte) : List HostEvent :=
  setA base (lengthOperand X) ++ [cmdEvent base .absorb] ++ feed base X

/-- `CSHAKE.v N, S, X, L` (30_encoding.md R313). -/
def cshake (base : Address) (v : Variant) (N S X : List Byte) (L : Nat) : List HostEvent :=
  setA base (lengthOperand N) ++ setB base (lengthOperand S) ++ [cmdEvent base (.csInit v)] ++ feed base (N ++ S)
    ++ absorbMessage base X ++ [cmdEvent base .csFinal] ++ squeeze base L

/-- `SHAKE.v X, L` (30_encoding.md R313). -/
def shake (base : Address) (v : Variant) (X : List Byte) (L : Nat) : List HostEvent := cshake base v [] [] X L

/-- `KMACXOF.v K, S, X, L` (30_encoding.md R313). -/
def kmacxof (base : Address) (v : Variant) (K S X : List Byte) (L : Nat) : List HostEvent :=
  setA base (lengthOperand K) ++ setB base (lengthOperand S) ++ [cmdEvent base (.kmacInit v)] ++ feed base (S ++ K)
    ++ absorbMessage base X ++ [cmdEvent base .kmacFinal] ++ squeeze base L

/-- `KMAC_AGAIN X, L` (30_encoding.md R313). -/
def kmacAgain (base : Address) (X : List Byte) (L : Nat) : List HostEvent :=
  [cmdEvent base .kmacRestore] ++ absorbMessage base X ++ [cmdEvent base .kmacFinal] ++ squeeze base L

/-- The words that reads returned, in order (20_memory.md R215). -/
def readWords : List Observation → List Word
  | [] => []
  | .returned v _ :: rest => v :: readWords rest
  | .wrote _ :: rest => readWords rest
  | .abandonedWrite :: rest => readWords rest
  | .abandonedRead _ :: rest => readWords rest

/-- The first L bytes of the unpacked words of a host's reads (30_encoding.md R313, 42_sponge_cshake.md R526). -/
def outputBytes (obs : List Observation) (L : Nat) : List Byte :=
  ((readWords obs).flatMap wordBytes).take L

end Sys2Proof.Machine
end

