-- ==== Sys2Proof/Machine/Reference.lean ====
section
/-! DEFINITION. The functions KCC computes, on whole byte strings and by whole blocks: the source's buffer model of the
sponge (42_sponge_cshake.md R502, R508), cSHAKE (R511, R512, R528) and KMACXOF (43_kmac.md R557, R561). No part of the
machine uses this file; statements compare the machine with it. -/

namespace Sys2Proof.Machine

/-- `0^k` (00_scope.md R12). -/
def zeroBytes (k : Nat) : List Byte := List.replicate k 0#8

/-- `pad0(T)`: T zero-padded to a multiple of r (43_kmac.md R557). -/
def pad0 (r : Nat) (T : List Byte) : List Byte := T ++ zeroBytes ((r - T.length % r) % r)

/-- `encode_string(X) = left_encode(8·|X|) || X` (40_encoders.md R404). -/
def encodeString (X : List Byte) : List Byte := leftEncode (BitVec.ofNat 64 (8 * X.length)) ++ X

/-- `bytepad(X, w)`: left_encode(w) || X, zero-padded to a multiple of w (42_sponge_cshake.md R511). -/
def bytepad (X : List Byte) (w : Nat) : List Byte := pad0 w (leftEncode (BitVec.ofNat 64 w) ++ X)

/-- A message with the domain byte and the end bit 0x80 of pad10*1, filling its last block of r bytes; when one byte is
left both share it (42_sponge_cshake.md R506). -/
def finalPadded (r : Nat) (ds : Byte) (M : List Byte) : List Byte :=
  let q := r - M.length % r
  if q = 1 then M ++ [ds ^^^ 0x80#8] else M ++ [ds] ++ zeroBytes (q - 2) ++ [0x80#8]

/-- Eight bytes of a string, from index i, as a lane, least significant byte first; past the end they are zero
(41_keccak_f.md R451). -/
def laneOfBytes (B : List Byte) (i : Nat) : Lane :=
  B.getD (i + 7) 0#8 ++ B.getD (i + 6) 0#8 ++ B.getD (i + 5) 0#8 ++ B.getD (i + 4) 0#8
    ++ B.getD (i + 3) 0#8 ++ B.getD (i + 2) 0#8 ++ B.getD (i + 1) 0#8 ++ B.getD i 0#8

/-- A full block XORed into the first bytes of the state, lane by lane (42_sponge_cshake.md R502). -/
def xorBlock (A : Lanes) (B : List Byte) : Lanes :=
  mkLanes fun x y => lane A x y ^^^ laneOfBytes B (8 * (x.val + 5 * y.val))

/-- `n` blocks of r bytes, each XORed in and permuted: the source's `absorb_blocks` (42_sponge_cshake.md R502). -/
def absorbBlocks (r : Nat) : Nat → List Byte → Lanes → Lanes
  | 0, _, A => A
  | n + 1, P, A => absorbBlocks r n (P.drop r) (keccakF (xorBlock A (P.take r)))

/-- f applied j times (42_sponge_cshake.md R508). -/
def keccakIter : Nat → Lanes → Lanes
  | 0, A => A
  | j + 1, A => keccakIter j (keccakF A)

/-- Output byte k of the sponge whose state after the final permutation is A0: getbyte(f^(k div R)(A0), k mod R)
(42_sponge_cshake.md R508). -/
def outputByte (r : Nat) (A0 : Lanes) (k : Nat) : Byte := getByte (keccakIter (k / r) A0) (k % r)

/-- L output bytes of the sponge of a variant over a message, from the all-zero state. -/
def spongeOutput (v : Variant) (ds : Byte) (M : List Byte) (L : Nat) : List Byte :=
  let P := finalPadded (rateOf v) ds M
  let A0 := absorbBlocks (rateOf v) (P.length / rateOf v) P (Vector.replicate 25 0#64)
  (List.range L).map (outputByte (rateOf v) A0)

/-- cSHAKE128 and cSHAKE256; SHAKE when N and S are empty (42_sponge_cshake.md R511, R512, R528). -/
def cshakeOutput (v : Variant) (N S X : List Byte) (L : Nat) : List Byte :=
  if N = [] ∧ S = [] then spongeOutput v 0x1F#8 X L
  else spongeOutput v 0x04#8 (bytepad (encodeString N ++ encodeString S) (rateOf v) ++ X) L

/-- The key block of KMAC: the padded key material, and the extra zero block Z when KEYPAD_ON_BOUNDARY = ZERO_BLOCK and the
material ends on a boundary (43_kmac.md R555, R557). -/
def keyBlock (mode : KeypadMode) (r : Nat) (K : List Byte) : List Byte :=
  let T := leftEncode (BitVec.ofNat 64 r) ++ encodeString K
  pad0 r T ++ (if mode = .zeroBlock ∧ T.length % r = 0 then zeroBytes r else [])

/-- KMACXOF as KCC computes it (43_kmac.md R561): cSHAKE with N = "KMAC" over key block, message and right_encode(0). -/
def kmacxofOutput (mode : KeypadMode) (v : Variant) (K S X : List Byte) (L : Nat) : List Byte :=
  cshakeOutput v functionName S (keyBlock mode (rateOf v) K ++ X ++ rightEncode 0#64) L

/-- KMACXOF128 and KMACXOF256 of SP 800-185 §4.3.1 as 93_implementation_defined.md G12 gives it:
newX = bytepad(encode_string(K), R) || X || right_encode(0), then cSHAKE(newX, L, "KMAC", S). -/
def standardKmacxof (v : Variant) (K S X : List Byte) (L : Nat) : List Byte :=
  cshakeOutput v functionName S (bytepad (encodeString K) (rateOf v) ++ X ++ rightEncode 0#64) L

end Sys2Proof.Machine
end

