-- ==== Sys2Proof/Safety.lean ====
section
/-! DEFINITION. What counts as a safe run, the invariant of the machine, and the terms statements use. -/

namespace Sys2Proof.Machine

/-- No error is latched and no stream is pending: the state in which a command is not turned away by steps 2 and 4 of
60_exceptions.md R702. -/
abbrev Ready (s : State) : Prop := s.err.err = false ∧ s.pend.op = .idle

/-- A state that may end a good run: "A model treats ERR = 1 as a fault state that is never final" (60_exceptions.md R704). -/
abbrev MayBeFinal (s : State) : Prop := s.err.err = false

/-- The bytes the pending stream still needs, exactly (10_state.md R112, R123). -/
def State.bytesDue (s : State) : Nat := s.pend.rem1.toNat + s.pend.rem2.toNat

/-- The state without the model's own fields: the block, its parameters and rst. -/
def State.block (s : State) : State := { s with inputs := [], observed := [], freeCount := 0 }

/-- The two states agree on every piece of state the spec gives the machine. -/
abbrev SameBlock (s t : State) : Prop := s.block = t.block

/-- The state without what no register shows and what depends on key or message bytes: S.A and SNAP.A (10_state.md R125). -/
def State.withoutSecrets (s : State) : State :=
  { s with
    sponge := { s.sponge with lanes := Vector.replicate 25 0#64 }
    snap := { s.snap with lanes := Vector.replicate 25 0#64 } }

/-- The run in which the host delivers these events one after the other, and no more (20_memory.md R215). -/
def runInputs (es : List HostEvent) (s : State) : Out :=
  Host.Core.run Sys2Proof.core es.length (s.withInputs es)

/-- Every piece of the block's state holds the value of 10_state.md R130, written out. -/
structure HoldsResetValues (t : State) : Prop where
  lanes : ∀ x y, lane t.sponge.lanes x y = 0x0000000000000000#64
  rate : t.sponge.rate = 168
  var : t.sponge.var = .v128
  pos : t.sponge.pos = 0
  ds : t.sponge.ds = 0x00#8
  spos : t.sponge.spos = 0
  snap : t.snap = snapshotOf t.sponge
  snap_valid : t.snapValid = false
  pend : t.pend = { op := .idle, seg := .one, rem1 := 0#64, rem2 := 0#64, a := 0#64, b := 0#64 }
  status : statusWord t = 0x00000000#32
  phase : t.phase = .idle
  err : t.err = { err := false, cause := .noError, src := .noSource, op := 0x00#8 }
  lena : t.lena = 0#64
  lenb : t.lenb = 0#64
  enc : t.encLen = 0#4 ∧ t.encW0 = 0#32 ∧ t.encW1 = 0#32 ∧ t.encW2 = 0#32
  inten : t.errie = false
  rem : remWord t = 0#32
  irq : irq t = false

/-- The phase table of 43_kmac.md R575 for a command that passes the other checks: the new phase, or none where the table
says err. An initialization leaves IDLE while its stream is due, and completes at once when both lengths are 0. -/
def phaseTable (i : Instr) (s : State) : Option Phase :=
  match i, s.phase with
  | .nop, p => some p
  | .encLeft, p => some p
  | .encRight, p => some p
  | .csInit _, _ => some (if s.lena = 0#64 ∧ s.lenb = 0#64 then .csAbsorb else .idle)
  | .kmacInit _, _ => some (if s.lena = 0#64 ∧ s.lenb = 0#64 then .kmKeyed else .idle)
  | .absorb, .csAbsorb => some .csAbsorb
  | .absorb, .kmKeyed => some .kmAbsorb
  | .absorb, .kmAbsorb => some .kmAbsorb
  | .absorb, .idle => none
  | .absorb, .csSqueeze => none
  | .absorb, .kmSqueeze => none
  | .csFinal, .csAbsorb => some .csSqueeze
  | .csFinal, .idle => none
  | .csFinal, .kmKeyed => none
  | .csFinal, .kmAbsorb => none
  | .csFinal, .csSqueeze => none
  | .csFinal, .kmSqueeze => none
  | .kmacFinal, .kmKeyed => some .kmSqueeze
  | .kmacFinal, .kmAbsorb => some .kmSqueeze
  | .kmacFinal, .idle => none
  | .kmacFinal, .csAbsorb => none
  | .kmacFinal, .csSqueeze => none
  | .kmacFinal, .kmSqueeze => none
  | .kmacRestore, .kmKeyed => some .kmKeyed
  | .kmacRestore, .kmAbsorb => some .kmKeyed
  | .kmacRestore, .kmSqueeze => some .kmKeyed
  | .kmacRestore, .idle => none
  | .kmacRestore, .csAbsorb => none
  | .kmacRestore, .csSqueeze => none
  | .softReset, _ => some .idle

/-- The codes of the phases in which the command with opcode `op` is allowed, the table of 60_exceptions.md R702 on
numbers. -/
def allowedPhaseCodes (op : Nat) : List Nat :=
  if op = 0x02 then [1, 2, 3]
  else if op = 0x03 then [1]
  else if op = 0x05 then [2, 3]
  else if op = 0x06 then [2, 3, 5]
  else [0, 1, 2, 3, 4, 5]

/-- Byte k of the encoder words ENC_W0, ENC_W1, ENC_W2 (10_state.md R110). -/
def State.encByte (s : State) (k : Nat) : Byte :=
  wordByte (if k / 4 = 0 then s.encW0 else if k / 4 = 1 then s.encW1 else s.encW2) (k % 4)

/-- The number a byte string stands for, most significant byte first. -/
def bigEndianValue (B : List Byte) : Nat := B.foldl (fun acc b => 256 * acc + b.toNat) 0

/-- One step of the register of 41_keccak_f.md R462 (FIPS 202 Algorithm 5): bit i of the register is bit i of the vector;
a zero is shifted in at bit 0 and the bit shifted out is added into bits 0, 4, 5 and 6. -/
def lfsrStep (r : BitVec 8) : BitVec 8 :=
  (r <<< 1) ^^^ (if r.getLsbD 7 then 0x71#8 else 0x00#8)

/-- The register after t steps from 10000000. -/
def lfsrState : Nat → BitVec 8
  | 0 => 0x01#8
  | t + 1 => lfsrStep (lfsrState t)

/-- rc(t) of 41_keccak_f.md R462. -/
def rcBit (t : Nat) : Bool := (lfsrState (t % 255)).getLsbD 0

/-- The place (x, y) reached after t steps of (x, y) <- (y, 2x + 3y) from (1, 0) (41_keccak_f.md R463). -/
def rhoPlace : Nat → Fin 5 × Fin 5
  | 0 => (1, 0)
  | t + 1 => ((rhoPlace t).2, 2 * (rhoPlace t).1 + 3 * (rhoPlace t).2)

/-- The invariant of the machine: 10_state.md R121 (positions, rate, ds), with what the rules of the commands imply about
P, SNAP and the latch. -/
structure State.Inv (s : State) : Prop where
  /-- S.pos < S.R (10_state.md R121). -/
  pos_lt : s.sponge.pos < s.sponge.rate
  /-- S.R matches S.var (10_state.md R121). -/
  rate_of_var : s.sponge.rate = rateOf s.sponge.var
  /-- S.spos <= S.R (10_state.md R120, R121). -/
  spos_le : s.sponge.spos ≤ s.sponge.rate
  /-- In the absorbing phases S.ds is not 0x00 (10_state.md R121). -/
  ds_set : s.phase = .csAbsorb ∨ s.phase = .kmKeyed ∨ s.phase = .kmAbsorb → s.sponge.ds ≠ 0x00#8
  /-- While an initialization's stream is pending PHASE is IDLE, ds is 0x04 and no byte has been squeezed
  (42_sponge_cshake.md R503, R510, 43_kmac.md R550). -/
  init_pending : s.pend.op = .csInit ∨ s.pend.op = .kmacInit →
    s.phase = .idle ∧ s.sponge.ds = 0x04#8 ∧ s.sponge.spos = 0
  /-- An initialization latched lengths below 2^61 (30_encoding.md R306). -/
  init_lengths : s.pend.op = .csInit ∨ s.pend.op = .kmacInit → s.pend.a.toNat < 2 ^ 61 ∧ s.pend.b.toNat < 2 ^ 61
  /-- While a message is pending PHASE is CS_ABSORB or KM_ABSORB (42_sponge_cshake.md R515). -/
  absorb_pending : s.pend.op = .absorb →
    (s.phase = .csAbsorb ∨ s.phase = .kmAbsorb) ∧ s.pend.seg = .one ∧ s.pend.rem2 = 0#64
  /-- The segment being received is not at its end (42_sponge_cshake.md R509). -/
  seg_one_due : s.pend.op ≠ .idle → s.pend.seg = .one → s.pend.rem1 ≠ 0#64
  seg_two_due : s.pend.op ≠ .idle → s.pend.seg = .two → s.pend.rem1 = 0#64 ∧ s.pend.rem2 ≠ 0#64
  /-- With no stream pending no byte is due (10_state.md R112). -/
  none_due : s.pend.op = .idle → s.pend.rem1 = 0#64 ∧ s.pend.rem2 = 0#64
  /-- What is due in a segment is at most what was latched for it. -/
  due_csInit : s.pend.op = .csInit → s.pend.rem1.toNat ≤ s.pend.a.toNat ∧ s.pend.rem2.toNat ≤ s.pend.b.toNat
  due_kmacInit : s.pend.op = .kmacInit → s.pend.rem1.toNat ≤ s.pend.b.toNat ∧ s.pend.rem2.toNat ≤ s.pend.a.toNat
  /-- A snapshot is valid exactly in the KMAC phases of a resettable core (43_kmac.md R556, R563). -/
  snap_valid : s.snapValid = true ↔
    s.build.resettable = true ∧ (s.phase = .kmKeyed ∨ s.phase = .kmAbsorb ∨ s.phase = .kmSqueeze)
  /-- A valid snapshot was taken at a block boundary of the current sponge's variant (43_kmac.md R556, R562). -/
  snap_fields : s.snapValid = true →
    s.snap.var = s.sponge.var ∧ s.snap.rate = s.sponge.rate ∧ s.snap.pos = 0 ∧ s.snap.ds = 0x04#8
  /-- With no valid snapshot SNAP holds its reset values (43_kmac.md R563). -/
  snap_clear : s.snapValid = false → s.snap = Snapshot.reset
  /-- In KM_KEYED, S is at a block boundary with ds 0x04, and equals the snapshot if there is one (43_kmac.md R562). -/
  keyed : s.phase = .kmKeyed → s.sponge.pos = 0 ∧ s.sponge.spos = 0 ∧ s.sponge.ds = 0x04#8 ∧
    (s.snapValid = true → s.snap = snapshotOf s.sponge)
  /-- The latch fields are 0 while ERR = 0 (10_state.md R105). -/
  latch_clear : s.err.err = false → s.err = ErrLatch.reset
  /-- The causes and sources of 60_exceptions.md R701 that occur together. -/
  latch_set : s.err.err = true →
    (s.err.cause = .illegalCmd ∧ s.err.src = .cmdWrite)
    ∨ (s.err.cause = .badPhase ∧ s.err.src = .cmdWrite)
    ∨ (s.err.cause = .badPhase ∧ s.err.src = .doutRead ∧ s.err.op = 0x00#8)
    ∨ (s.err.cause = .protocol ∧ s.err.src = .cmdWrite)
    ∨ (s.err.cause = .protocol ∧ s.err.src = .dinWrite ∧ s.err.op = 0x00#8)
    ∨ (s.err.cause = .length ∧ s.err.src = .cmdWrite ∧ (s.err.op = 0x01#8 ∨ s.err.op = 0x04#8))
    ∨ (s.err.cause = .noSnapshot ∧ s.err.src = .cmdWrite ∧ s.err.op = 0x06#8 ∧ s.build.resettable = false)
  /-- ENC_LEN is from 2 to 9, or 0 after reset (10_state.md R110). -/
  enc_len : s.encLen = 0#4 ∨ (2 ≤ s.encLen.toNat ∧ s.encLen.toNat ≤ 9)

end Sys2Proof.Machine
end

