-- ==== Sys2Proof/Certificates/Slice0/Obligations.lean ====
section
/-! DEFINITION. The statements about the machine, from the numbered rules of spec/. -/

open Sys2Proof Sys2Proof.Machine

/-! Command words -/

/-- 30_encoding.md R304: "the legal command words are exactly" these twelve; every other word is illegal. -/
def Obligations.LegalWordsAreExactlyTwelve : Prop :=
  ∀ w : Word, (∃ i, decode w = .ok i) ↔
    w ∈ ([0x00000000, 0x00000001, 0x00000101, 0x00000002, 0x00000003, 0x00000004, 0x00000104, 0x00000005,
          0x00000006, 0x00000007, 0x00000008, 0x000000FF] : List Word)

/-- 30_encoding.md R307: a word is illegal exactly when (a), (b) or (c) holds; a write of one to CMD raises ILLEGAL_CMD, or
is ignored while ERR = 1. -/
def Obligations.IllegalWordsByCondition : Prop :=
  ∀ w : Word,
    ((∃ e, decode w = .error e) ↔
      (9 ≤ w.toNat % 256 ∧ w.toNat % 256 ≤ 0xFE) ∨ w.toNat / 512 ≠ 0 ∨
      (w.toNat / 256 % 2 = 1 ∧ w.toNat % 256 ≠ 0x01 ∧ w.toNat % 256 ≠ 0x04)) ∧
    ∀ e, decode w = .error e → ∀ s : State,
      writeReg .cmd w s =
        if s.err.err then .next s
        else .next { s with err := { err := true, cause := .illegalCmd, src := .cmdWrite,
                                     op := BitVec.ofNat 8 (w.toNat % 256) } }

/-- Decoding and encoding agree in both directions (30_encoding.md R301, R303): an encoded instruction decodes to itself,
and a word that decodes is the encoding of what it decodes to. -/
def Obligations.DecodeEncodeAgree : Prop :=
  (∀ i : Instr, i.wellFormed = true → decode (encode i) = .ok i) ∧
  (∀ (w : Word) (i : Instr), decode w = .ok i → i.wellFormed = true ∧ encode i = w)

/-- The words of 30_encoding.md R303 and R304, written out, decode to the commands they stand for. -/
def Obligations.OpcodeWordsDecode : Prop :=
  decode 0x00000000 = .ok .nop ∧ decode 0x00000001 = .ok (.csInit .v128) ∧ decode 0x00000101 = .ok (.csInit .v256) ∧
  decode 0x00000002 = .ok .absorb ∧ decode 0x00000003 = .ok .csFinal ∧ decode 0x00000004 = .ok (.kmacInit .v128) ∧
  decode 0x00000104 = .ok (.kmacInit .v256) ∧ decode 0x00000005 = .ok .kmacFinal ∧
  decode 0x00000006 = .ok .kmacRestore ∧ decode 0x00000007 = .ok .encLeft ∧ decode 0x00000008 = .ok .encRight ∧
  decode 0x000000FF = .ok .softReset

/-! The step -/

/-- A step delivers the next access: a write acts on the register its address selects and then the level of irq is
observed; a read returns the register's value (20_memory.md R201, R202, R206, R215). With nothing to come the state stands
(10_state.md R101; the model's own convention, log 1). -/
def Obligations.StepPerformsNextAccess : Prop :=
  (∀ (s : State) (addr : Address) (m : BitVec 4) (v : Word) (rest : List HostEvent),
    s.inputs = .access (.write addr m v) :: rest → s.rst = false →
    ∃ u, writeReg (selectReg s.build.kccBase addr) v (s.withInputs rest) = .next u ∧
      step s = .next { u with observed := u.observed ++ [.wrote (u.err.err && u.errie)] }) ∧
  (∀ (s : State) (addr : Address) (m : BitVec 4) (rest : List HostEvent),
    s.inputs = .access (.read addr m) :: rest → s.rst = false →
    let r := readReg (selectReg s.build.kccBase addr) (s.withInputs rest)
    step s = .next { r.2 with observed := r.2.observed ++ [.returned r.1 (r.2.err.err && r.2.errie)] }) ∧
  (∀ s : State, s.inputs = [] → step s = .next s)

/-- When the next access writes to CMD a word that decodes to an instruction, the step is exec of that instruction, after
which the level of irq is observed (10_state.md R104, 20_memory.md R202). -/
def Obligations.StepRunsDecodedCommand : Prop :=
  ∀ (s : State) (addr : Address) (m : BitVec 4) (w : Word) (rest : List HostEvent) (i : Instr),
    s.inputs = .access (.write addr m w) :: rest → s.rst = false →
    selectReg s.build.kccBase addr = .cmd → decode w = .ok i →
    ∃ t, exec i (s.withInputs rest) = .next t ∧
      step s = .next { t with observed := t.observed ++ [.wrote (t.err.err && t.errie)] }

/-! Length encodings and the encoder commands -/

/-- 40_encoders.md R402: minlen(n) is the smallest L >= 1 with n < 2^(8L). -/
def Obligations.MinlenIsLeast : Prop :=
  ∀ n : U64, 1 ≤ minlen n ∧ n.toNat < 2 ^ (8 * minlen n) ∧
    ∀ L : Nat, 1 ≤ L → n.toNat < 2 ^ (8 * L) → minlen n ≤ L

/-- 40_encoders.md R403: both encodings are 2 to 9 bytes long and have the same value bytes in the same order. -/
def Obligations.EncodingsShareValueBytes : Prop :=
  ∀ n : U64,
    2 ≤ (leftEncode n).length ∧ (leftEncode n).length ≤ 9 ∧
    2 ≤ (rightEncode n).length ∧ (rightEncode n).length ≤ 9 ∧
    (leftEncode n).tail = (rightEncode n).dropLast

/-- 40_encoders.md R400, R401: the length byte is minlen(n), first or last; the other bytes are minlen(n) many and stand for
n, most significant first. -/
def Obligations.EncodingsHoldLengthAndValue : Prop :=
  ∀ n : U64,
    (leftEncode n).head? = some (BitVec.ofNat 8 (minlen n)) ∧
    (leftEncode n).length = minlen n + 1 ∧ bigEndianValue (leftEncode n).tail = n.toNat ∧
    (rightEncode n).getLast? = some (BitVec.ofNat 8 (minlen n)) ∧
    (rightEncode n).length = minlen n + 1 ∧ bigEndianValue (rightEncode n).dropLast = n.toNat

/-- 40_encoders.md R410: with no error latched and nothing pending, in every phase and for every LENA, ENC_LEFT answers a
state whose encoder registers hold left_encode(LENA), the rest of the twelve bytes zero; everything else is unchanged. -/
def Obligations.EncLeftWritesEncoderRegisters : Prop :=
  ∀ s : State, Ready s → ∃ t, exec .encLeft s = .next t ∧
    t.encLen.toNat = (leftEncode s.lena).length ∧
    (∀ k, k < 12 → t.encByte k = (leftEncode s.lena).getD k 0x00#8) ∧
    { t with encLen := s.encLen, encW0 := s.encW0, encW1 := s.encW1, encW2 := s.encW2 } = s

/-- 40_encoders.md R411: the same for ENC_RIGHT and right_encode(LENA). -/
def Obligations.EncRightWritesEncoderRegisters : Prop :=
  ∀ s : State, Ready s → ∃ t, exec .encRight s = .next t ∧
    t.encLen.toNat = (rightEncode s.lena).length ∧
    (∀ k, k < 12 → t.encByte k = (rightEncode s.lena).getD k 0x00#8) ∧
    { t with encLen := s.encLen, encW0 := s.encW0, encW1 := s.encW1, encW2 := s.encW2 } = s

/-! The permutation -/

/-- 41_keccak_f.md R452, R454, R455, R456: the lanes of θ, π (in both its forms), χ and ι. -/
def Obligations.StepMappingsByLane : Prop :=
  ∀ (A : Lanes) (x y : Fin 5),
    (let C : Fin 5 → Lane := fun x => lane A x 0 ^^^ lane A x 1 ^^^ lane A x 2 ^^^ lane A x 3 ^^^ lane A x 4
     lane (theta A) x y = lane A x y ^^^ (C (x + 4) ^^^ (C (x + 1)).rotateLeft 1)) ∧
    lane (pi A) x y = lane A (x + 3 * y) x ∧
    lane (pi A) y (2 * x + 3 * y) = lane A x y ∧
    lane (chi A) x y = lane A x y ^^^ (~~~(lane A (x + 1) y) &&& lane A (x + 2) y) ∧
    (∀ ir : Nat, lane (iota A ir) x y =
      if x = 0 ∧ y = 0 then lane A x y ^^^ roundConstant ir else lane A x y)

/-- 41_keccak_f.md R462, R463: the round constants are those of the shift register, and ρ rotates by the offsets of the
recurrence ((t+1)(t+2)/2) mod 64 along (x, y) <- (y, 2x + 3y) from (1, 0), with offset 0 at (0, 0). -/
def Obligations.TablesByRecurrence : Prop :=
  (∀ ir : Nat, ir < 24 → ∀ k : Nat, k < 64 →
    (roundConstant ir).getLsbD k = (List.range 7).any fun j => decide (k = 2 ^ j - 1) && rcBit (j + 7 * ir)) ∧
  (∀ A : Lanes, lane (rho A) 0 0 = lane A 0 0) ∧
  (∀ (A : Lanes) (t : Nat), t < 24 →
    lane (rho A) (rhoPlace t).1 (rhoPlace t).2 =
      (lane A (rhoPlace t).1 (rhoPlace t).2).rotateLeft (((t + 1) * (t + 2) / 2) % 64))

/-- 41_keccak_f.md R459: f is a bijection on 1600-bit states. -/
def Obligations.KeccakFIsBijective : Prop := Function.Bijective keccakF

/-- 41_keccak_f.md R451: state byte i is byte i mod 8 of lane number i div 8, x = l mod 5, y = l div 5; xorbyte XORs v into
state byte i and leaves every other byte. -/
def Obligations.StateBytesReadAndXor : Prop :=
  (∀ (A : Lanes) (i : Nat) (x y : Fin 5), i < 200 → x.val = i / 8 % 5 → y.val = i / 8 / 5 →
    getByte A i = (lane A x y).extractLsb' (8 * (i % 8)) 8) ∧
  (∀ (A : Lanes) (i j : Nat) (v : Byte), i < 200 → j < 200 →
    getByte (xorByte A i v) j = if j = i then getByte A j ^^^ v else getByte A j)

/-! The sponge -/

/-- 42_sponge_cshake.md R505: pad_std fills the partial block with zeros and absorbs it; when no byte is buffered it does
nothing. So it is the absorption of the least number of zero bytes that reaches a block boundary. -/
def Obligations.PadStdAbsorbsZeros : Prop :=
  ∀ S : Sponge, S.pos < S.rate → S.rate ≤ 200 →
    padStd S = absorb S (zeroBytes ((S.rate - S.pos) % S.rate))

/-- 43_kmac.md R555: with ZERO_BLOCK the key pad absorbs zeros up to the end of the block, a full zero block at pos = 0;
with NONE it is pad_std; the two differ only at pos = 0, which after the key material of a-byte keys is where
(3 + minlen(8a) + a) mod R = 0. -/
def Obligations.KeypadZeroBlockRule : Prop :=
  (∀ S : Sponge, S.pos < S.rate → S.rate ≤ 200 →
    keypad .zeroBlock S = absorb S (zeroBytes (S.rate - S.pos)) ∧
    keypad .noBlock S = absorb S (zeroBytes ((S.rate - S.pos) % S.rate)) ∧
    (S.pos ≠ 0 → keypad .zeroBlock S = keypad .noBlock S)) ∧
  (∀ (v : Variant) (S : Sponge) (a : U64) (K : List Byte),
    S.pos = 0 → S.rate = rateOf v → a.toNat < 2 ^ 61 → K.length = a.toNat →
    (absorb S (leftEncode (BitVec.ofNat 64 S.rate) ++ leftEncode (8 * a) ++ K)).pos =
      (3 + minlen (8 * a) + a.toNat) % S.rate)

/-- 42_sponge_cshake.md R506: final_pad is the absorption of the domain byte, zeros and 0x80 up to the end of the block,
domain byte and 0x80 sharing the byte when only one is left; the squeeze then starts at 0. -/
def Obligations.FinalPadClosesTheBlock : Prop :=
  ∀ S : Sponge, S.pos < S.rate → S.rate ≤ 200 →
    finalPad S =
      { absorb S (if S.pos = S.rate - 1 then [S.ds ^^^ 0x80#8]
                  else [S.ds] ++ zeroBytes (S.rate - S.pos - 2) ++ [0x80#8]) with spos := 0 }

/-- 42_sponge_cshake.md R508: after final_pad (spos = 0, state A0), output byte k is getbyte(f^(k div R)(A0), k mod R). -/
def Obligations.OutputSequenceByBlocks : Prop :=
  ∀ (S : Sponge) (n : Nat), 0 < S.rate → S.spos = 0 →
    (squeezeBytes n S).1 =
      (List.range n).map fun k => getByte (keccakF^[k / S.rate] S.lanes) (k % S.rate)

/-- 42_sponge_cshake.md R502: absorbing byte by byte into a fresh sponge is the source's buffer model: the full blocks
XORed and permuted one by one, then the partial block XORed in. -/
def Obligations.BufferModelEquivalence : Prop :=
  ∀ (v : Variant) (M : List Byte),
    let S := absorb (spongeClear v) M
    let r := rateOf v
    S.pos = M.length % r ∧
    S.lanes = xorBlock (absorbBlocks r (M.length / r) M (Vector.replicate 25 0#64)) (M.drop (r * (M.length / r)))

/-! The commands -/

/-- 44_control.md R600: NOP, once the checks pass, changes nothing. -/
def Obligations.NopChangesNothing : Prop :=
  ∀ s : State, Ready s → exec .nop s = .next s

/-- 44_control.md R601, 30_encoding.md R309: SOFT_RESET is the word 0x000000FF exactly, and in every state it returns every
piece of the block's state to its reset value; the build parameters stand. -/
def Obligations.SoftResetInEveryState : Prop :=
  (∀ w : Word, decode w = .ok .softReset ↔ w = 0x000000FF#32) ∧
  (∀ s : State, ∃ t, exec .softReset s = .next t ∧ HoldsResetValues t ∧ t.build = s.build ∧ t.rst = s.rst ∧
    t.inputs = s.inputs ∧ t.observed = s.observed ∧ t.freeCount = s.freeCount)

/-- 70_reset_and_hazards.md R800, R803: asserting rst between accesses answers a state with rst asserted; when rst is
released every piece of state holds its reset value; an access that rst cuts off leaves no partial effect. While rst is
asserted no access is accepted (R800): that the step then stops with the fault accessWhileRst is the model's own choice,
log 4 (DESIGN CHOICE). -/
def Obligations.HardwareReset : Prop :=
  (∀ (s : State) (rest : List HostEvent), s.inputs = .releaseRst :: rest → s.rst = true →
    ∃ t, step s = .next t ∧ HoldsResetValues t ∧ t.rst = false ∧ t.build = s.build ∧ t.inputs = rest ∧
      t.observed = s.observed) ∧
  (∀ (s : State) (rest : List HostEvent), s.inputs = .assertRst :: rest →
    ∃ t, step s = .next t ∧ t.rst = true ∧ t.build = s.build ∧ t.inputs = rest ∧ t.observed = s.observed) ∧
  (∀ (s : State) (rest : List HostEvent), s.inputs = .assertRst :: .releaseRst :: rest →
    ∃ t u, step s = .next t ∧ t.rst = true ∧ step t = .next u ∧ HoldsResetValues u ∧ u.rst = false ∧
      u.build = s.build ∧ u.inputs = rest ∧ u.observed = s.observed) ∧
  (∀ (s : State) (a : BusAccess) (rest : List HostEvent), s.inputs = .access a :: rest → s.rst = true →
    step s = .fault .accessWhileRst) ∧
  (∀ (s : State) (a : BusAccess) (rest : List HostEvent),
    s.inputs = .assertRstDuring a :: .releaseRst :: rest → s.rst = false →
    ∃ t u, step s = .next t ∧ t.rst = true ∧ step t = .next u ∧ HoldsResetValues u ∧ u.rst = false ∧
      u.build = s.build ∧ u.inputs = rest)

/-- 42_sponge_cshake.md R510, R512: CS_INIT with both lengths 0 starts SHAKE: a cleared sponge with ds = 0x1F, no prefix, the
snapshot cleared, PHASE = CS_ABSORB, nothing pending; the rest unchanged. -/
def Obligations.CsInitStartsShake : Prop :=
  ∀ (v : Variant) (s : State), Ready s → s.lena = 0#64 → s.lenb = 0#64 →
    exec (.csInit v) s = .next
      { s with
        snap := Snapshot.reset
        snapValid := false
        sponge := { lanes := Vector.replicate 25 0#64, rate := if v = .v128 then 168 else 136, var := v, pos := 0,
                    ds := 0x1F#8, spos := 0 }
        phase := .csAbsorb }

/-- 42_sponge_cshake.md R510, R513 (a): CS_INIT with lengths a = LENA and b = LENB below 2^61, not both 0, clears the
snapshot, absorbs left_encode(R) || left_encode(8a) into a cleared sponge with ds = 0x04 and waits for a bytes of N, then b
bytes of S; with a = 0 it has also absorbed left_encode(8b) and waits for S. The rest is unchanged. -/
def Obligations.CsInitIssuesItsStream : Prop :=
  ∀ (v : Variant) (s : State), Ready s → s.lena.toNat < 2 ^ 61 → s.lenb.toNat < 2 ^ 61 →
    ¬ (s.lena = 0#64 ∧ s.lenb = 0#64) →
    let r : Nat := if v = .v128 then 168 else 136
    let S0 : Sponge := { lanes := Vector.replicate 25 0#64, rate := r, var := v, pos := 0, ds := 0x04#8, spos := 0 }
    let P : List Byte := [0x01#8, BitVec.ofNat 8 r] ++ leftEncode (8 * s.lena)
    exec (.csInit v) s = .next
      { s with
        snap := Snapshot.reset
        snapValid := false
        phase := .idle
        sponge := absorb S0 (if s.lena = 0#64 then P ++ leftEncode (8 * s.lenb) else P)
        pend := { op := .csInit, seg := if s.lena = 0#64 then .two else .one, rem1 := s.lena, rem2 := s.lenb,
                  a := s.lena, b := s.lenb } }

/-- 42_sponge_cshake.md R515: ABSORB in CS_ABSORB, KM_KEYED or KM_ABSORB latches a = LENA, moves KM_KEYED to KM_ABSORB and
waits for a bytes; with a = 0 it completes at once. The rest is unchanged. -/
def Obligations.AbsorbIssuesItsStream : Prop :=
  ∀ s : State, Ready s → s.phase = .csAbsorb ∨ s.phase = .kmKeyed ∨ s.phase = .kmAbsorb →
    exec .absorb s = .next
      { s with
        phase := if s.phase = .kmKeyed then .kmAbsorb else s.phase
        pend := { op := if s.lena = 0#64 then .idle else .absorb, seg := if s.lena = 0#64 then .two else .one,
                  rem1 := s.lena, rem2 := 0#64, a := s.lena, b := s.lenb } }

/-- 42_sponge_cshake.md R523, R506: CS_FINAL in CS_ABSORB XORs ds into byte pos and 0x80 into byte R - 1, permutes, and opens
the squeeze; the rest is unchanged. -/
def Obligations.CsFinalOpensTheSqueeze : Prop :=
  ∀ s : State, Ready s → s.phase = .csAbsorb →
    exec .csFinal s = .next
      { s with
        sponge := { s.sponge with
                    lanes := keccakF (xorByte (xorByte s.sponge.lanes s.sponge.pos s.sponge.ds) (s.sponge.rate - 1) 0x80#8)
                    pos := 0
                    spos := 0 }
        phase := .csSqueeze }

/-- 43_kmac.md R550, R552, R555, R556: KMAC_INIT with lengths a = LENA and b = LENB below 2^61 clears the snapshot and
absorbs [01, R, 01, 20, "KMAC"] || left_encode(8b) into a cleared sponge with ds = 0x04. With b > 0 it waits for S, then K.
With b = 0 and a > 0 it has closed the prefix, absorbed [01, R] || left_encode(8a) and waits for K. With both 0 it also has
absorbed the key pad, taken the snapshot if RESETTABLE = 1, and is KM_KEYED. The rest is unchanged. -/
def Obligations.KmacInitIssuesItsStream : Prop :=
  ∀ (v : Variant) (s : State), Ready s → s.lena.toNat < 2 ^ 61 → s.lenb.toNat < 2 ^ 61 →
    let r : Nat := if v = .v128 then 168 else 136
    let S0 : Sponge := { lanes := Vector.replicate 25 0#64, rate := r, var := v, pos := 0, ds := 0x04#8, spos := 0 }
    let S1 := absorb S0 ([0x01#8, BitVec.ofNat 8 r, 0x01#8, 0x20#8, 0x4B#8, 0x4D#8, 0x41#8, 0x43#8]
      ++ leftEncode (8 * s.lenb))
    let S2 := absorb (padStd S1) ([0x01#8, BitVec.ofNat 8 r] ++ leftEncode (8 * s.lena))
    let S3 := keypad s.build.keypadOnBoundary S2
    (s.lenb ≠ 0#64 →
      exec (.kmacInit v) s = .next
        { s with
          snap := Snapshot.reset, snapValid := false, phase := .idle, sponge := S1
          pend := { op := .kmacInit, seg := .one, rem1 := s.lenb, rem2 := s.lena, a := s.lena, b := s.lenb } }) ∧
    (s.lenb = 0#64 → s.lena ≠ 0#64 →
      exec (.kmacInit v) s = .next
        { s with
          snap := Snapshot.reset, snapValid := false, phase := .idle, sponge := S2
          pend := { op := .kmacInit, seg := .two, rem1 := 0#64, rem2 := s.lena, a := s.lena, b := 0#64 } }) ∧
    (s.lenb = 0#64 → s.lena = 0#64 →
      exec (.kmacInit v) s = .next
        { s with
          snap := if s.build.resettable then
              { lanes := S3.lanes, rate := S3.rate, var := S3.var, pos := S3.pos, ds := S3.ds }
            else Snapshot.reset
          snapValid := s.build.resettable, phase := .kmKeyed, sponge := S3
          pend := { op := .idle, seg := .two, rem1 := 0#64, rem2 := 0#64, a := 0#64, b := 0#64 } })

/-- 43_kmac.md R560: KMAC_FINAL in KM_KEYED or KM_ABSORB absorbs right_encode(0) = [00, 01] like message bytes, pads and
opens the squeeze; the rest is unchanged. -/
def Obligations.KmacFinalOpensTheSqueeze : Prop :=
  ∀ s : State, Ready s → s.phase = .kmKeyed ∨ s.phase = .kmAbsorb →
    exec .kmacFinal s = .next
      { s with sponge := finalPad (absorb s.sponge [0x00#8, 0x01#8]), phase := .kmSqueeze }

/-- 43_kmac.md R562: KMAC_RESTORE in a KMAC phase with a valid snapshot restores A, R, var, pos and ds from it, sets spos to
0 and PHASE to KM_KEYED; the snapshot and the rest are unchanged. -/
def Obligations.KmacRestoreReturnsToTheSnapshot : Prop :=
  ∀ s : State, Ready s → s.phase = .kmKeyed ∨ s.phase = .kmAbsorb ∨ s.phase = .kmSqueeze → s.snapValid = true →
    exec .kmacRestore s = .next
      { s with
        sponge := { lanes := s.snap.lanes, rate := s.snap.rate, var := s.snap.var, pos := s.snap.pos, ds := s.snap.ds,
                    spos := 0 }
        phase := .kmKeyed }

/-- 43_kmac.md R562: in KM_KEYED, S always equals SNAP, so there KMAC_RESTORE changes nothing. -/
def Obligations.RestoreInKeyedChangesNothing : Prop :=
  ∀ s : State, s.Inv → Ready s → s.phase = .kmKeyed → s.snapValid = true →
    exec .kmacRestore s = .next s

/-! Errors -/

/-- 60_exceptions.md R702: the order of the checks of a CMD write, and those of a DIN write and a DOUT read. -/
def Obligations.CheckOrder : Prop :=
  (∀ (w : Word) (s : State),
    let op := w.toNat % 256
    let raised (c : ErrCause) : Prop :=
      writeReg .cmd w s =
        .next { s with err := { err := true, cause := c, src := .cmdWrite, op := BitVec.ofNat 8 op } }
    if w = 0x000000FF#32 then ∃ t, writeReg .cmd w s = .next t ∧ HoldsResetValues t
    else if s.err.err = true then writeReg .cmd w s = .next s
    else if CmdWord.wellFormed w = false then raised .illegalCmd
    else if s.pend.op ≠ .idle then raised .protocol
    else if s.phase.code ∉ allowedPhaseCodes op then raised .badPhase
    else if op = 0x06 ∧ s.snapValid = false then raised .noSnapshot
    else if (op = 0x01 ∨ op = 0x04) ∧ (2 ^ 61 ≤ s.lena.toNat ∨ 2 ^ 61 ≤ s.lenb.toNat) then raised .length
    else ∃ i t, decode w = .ok i ∧ exec i s = .next t ∧ writeReg .cmd w s = .next t ∧ t.err = s.err) ∧
  (∀ (w : Word) (s : State),
    if s.err.err = true then writeReg .din w s = .next s
    else if s.pend.op = .idle then
      writeReg .din w s =
        .next { s with err := { err := true, cause := .protocol, src := .dinWrite, op := 0x00#8 } }
    else ∃ t, writeReg .din w s = .next t ∧ t.err = s.err) ∧
  (∀ s : State,
    if s.err.err = true then readReg .dout s = (0#32, s)
    else if s.phase ≠ .csSqueeze ∧ s.phase ≠ .kmSqueeze then
      readReg .dout s =
        (0#32, { s with err := { err := true, cause := .badPhase, src := .doutRead, op := 0x00#8 } })
    else (readReg .dout s).2.err = s.err)

/-- 60_exceptions.md R700, R703: a step that latches an error is a CMD write, a DIN write or a DOUT read; the state after it
is the state before it plus the latch, and a DOUT read that raises returns 0. -/
def Obligations.ErrorsArePrecise : Prop :=
  ∀ s t : State, step s = .next t → s.err.err = false → t.err.err = true →
    t.block = { s with err := t.err }.block ∧
    ∃ e rest, s.inputs = e :: rest ∧ t.inputs = rest ∧
      ((∃ addr m w, e = .access (.write addr m w) ∧ selectReg s.build.kccBase addr = .cmd ∧
          t.err.src = .cmdWrite ∧ t.err.op = BitVec.ofNat 8 (w.toNat % 256)) ∨
       (∃ addr m w, e = .access (.write addr m w) ∧ selectReg s.build.kccBase addr = .din ∧
          t.err = { err := true, cause := .protocol, src := .dinWrite, op := 0x00#8 }) ∨
       (∃ addr m, e = .access (.read addr m) ∧ selectReg s.build.kccBase addr = .dout ∧
          t.err = { err := true, cause := .badPhase, src := .doutRead, op := 0x00#8 } ∧
          t.observed = s.observed ++ [.returned 0#32 s.errie]))

/-- 60_exceptions.md R704: while ERR = 1 every CMD write other than 0x000000FF and every DIN write is ignored, every DOUT
read returns 0 and squeezes nothing; the other registers read what they would read with no error latched, STATUS reads the
latch, and the writes of LENA, LENB and INTEN still work. -/
def Obligations.HaltedCoreIgnoresAccesses : Prop :=
  ∀ s : State, s.err.err = true →
    (∀ w : Word, w ≠ 0x000000FF#32 → writeReg .cmd w s = .next s) ∧
    (∀ w : Word, writeReg .din w s = .next s) ∧
    readReg .dout s = (0x00000000#32, s) ∧
    (∀ r : Reg, (readReg r s).2 = s) ∧
    (∀ r : Reg, r ≠ .dout → r ≠ .status →
      (readReg r s).1 = (readReg r { s with err := ErrLatch.reset }).1) ∧
    readReg .status s = (statusWord s, s) ∧ (statusWord s).getLsbD 6 = true ∧
    (∀ v : Word,
      writeReg .lenaLo v s = .next { s with lenaLo := v } ∧ writeReg .lenaHi v s = .next { s with lenaHi := v } ∧
      writeReg .lenbLo v s = .next { s with lenbLo := v } ∧ writeReg .lenbHi v s = .next { s with lenbHi := v } ∧
      writeReg .inten v s = .next { s with errie := v.getLsbD 0 })

/-- 60_exceptions.md R705: once an error is latched, a step keeps the latch as it is, unless it is a SOFT_RESET write or an
edge of rst, which reset everything else too. -/
def Obligations.LatchClearedOnlyByReset : Prop :=
  ∀ s t : State, step s = .next t → s.err.err = true →
    t.err = s.err ∨
    (HoldsResetValues t ∧ ∃ e rest, s.inputs = e :: rest ∧
      ((∃ addr m, e = .access (.write addr m 0x000000FF#32) ∧ selectReg s.build.kccBase addr = .cmd) ∨
        e = .assertRst ∨ (∃ a, e = .assertRstDuring a) ∨ (e = .releaseRst ∧ s.rst = true)))

/-- 43_kmac.md R575: the phase transitions with ERR = 0 and PEND = 0. Where the table says err, the command raises
BAD_PHASE, whatever the lengths and the snapshot; elsewhere it runs and leaves the table's phase, KMAC_RESTORE when a
snapshot is valid and an initialization when its lengths are below 2^61. A DOUT read leaves the phase and is allowed in the
squeeze phases only. -/
def Obligations.PhaseTransitionTable : Prop :=
  (∀ (i : Instr) (s : State), Ready s →
    (i = .kmacRestore → phaseTable i s ≠ none → s.snapValid = true) →
    (∀ v : Variant, i = .csInit v ∨ i = .kmacInit v → s.lena.toNat < 2 ^ 61 ∧ s.lenb.toNat < 2 ^ 61) →
    ∃ t, exec i s = .next t ∧
      match phaseTable i s with
      | none => t = { s with err := { err := true, cause := .badPhase, src := .cmdWrite, op := i.opcode } }
      | some p => t.phase = p ∧ t.err.err = false) ∧
  (∀ s : State, Ready s →
    (readReg .dout s).2.phase = s.phase ∧
    ((readReg .dout s).2.err.err = false ↔ s.phase = .csSqueeze ∨ s.phase = .kmSqueeze))

/-! Streams -/

/-- 42_sponge_cshake.md R509, R520, 70_reset_and_hazards.md R815: with a stream pending, a DIN write consumes four bytes, or
all that are due if fewer; the stream stays pending exactly when more than four were due. When it completes, CS_INIT's
leaves CS_ABSORB, KMAC_INIT's leaves KM_KEYED, and ABSORB's leaves the phase. Only S, SNAP, P and PHASE change. Where the
segment goes on S has absorbed the four bytes of the word in order, and in ABSORB's stream always its first bytesDue bytes.
The remaining high bytes of a stream's last word have no effect: words that agree in the bytes consumed answer the same
state. -/
def Obligations.DinCountsAndCompletes : Prop :=
  ∀ (w : Word) (s : State), s.Inv → s.err.err = false → s.pend.op ≠ .idle →
    ∃ t, writeReg .din w s = .next t ∧
      t.bytesDue = s.bytesDue - 4 ∧
      (t.pend.op ≠ .idle ↔ 4 < s.bytesDue) ∧
      (t.pend.op ≠ .idle → t.pend.op = s.pend.op ∧ t.phase = s.phase) ∧
      (t.pend.op = .idle → t.phase =
        match s.pend.op with
        | .csInit => .csAbsorb
        | .kmacInit => .kmKeyed
        | .absorb => s.phase
        | .idle => s.phase) ∧
      { t with sponge := s.sponge, snap := s.snap, snapValid := s.snapValid, pend := s.pend, phase := s.phase } = s ∧
      (4 < (if s.pend.seg = .one then s.pend.rem1 else s.pend.rem2).toNat →
        t.sponge = absorb s.sponge (wordBytes w)) ∧
      (s.pend.op = .absorb → t.sponge = absorb s.sponge ((wordBytes w).take s.bytesDue)) ∧
      ∀ w' : Word, (∀ k, k < min 4 s.bytesDue → wordByte w' k = wordByte w k) → writeReg .din w' s = .next t

/-- 42_sponge_cshake.md R515, R516, R520: setting LENA, issuing ABSORB and feeding the message absorbs exactly the message;
splitting it over two ABSORB commands gives the same sponge and phase as one. -/
def Obligations.MessageStreamDeliversAndSplits : Prop :=
  (∀ (X : List Byte) (s : State), Ready s → s.rst = false → X.length < 2 ^ 64 →
    s.phase = .csAbsorb ∨ s.phase = .kmKeyed ∨ s.phase = .kmAbsorb →
    ∃ t, runInputs (absorbMessage s.build.kccBase X) s = .next t ∧ t.sponge = absorb s.sponge X ∧ Ready t ∧
      t.phase = (if s.phase = .kmKeyed then .kmAbsorb else s.phase) ∧ t.snap = s.snap ∧ t.snapValid = s.snapValid) ∧
  (∀ (X Y : List Byte) (s : State), Ready s → s.rst = false → X.length + Y.length < 2 ^ 64 →
    s.phase = .csAbsorb ∨ s.phase = .kmKeyed ∨ s.phase = .kmAbsorb →
    ∃ t u, runInputs (absorbMessage s.build.kccBase X ++ absorbMessage s.build.kccBase Y) s = .next t ∧
      runInputs (absorbMessage s.build.kccBase (X ++ Y)) s = .next u ∧
      t.sponge = u.sponge ∧ t.phase = u.phase)

/-- 42_sponge_cshake.md R511: after a CS_INIT with a + b > 0 completes, the bytes absorbed into a fresh sponge are exactly
bytepad(encode_string(N) || encode_string(S), R). -/
def Obligations.CsInitAbsorbsThePrefix : Prop :=
  ∀ (v : Variant) (N S : List Byte) (s : State), Ready s → s.rst = false →
    N.length < 2 ^ 61 → S.length < 2 ^ 61 → 0 < N.length + S.length →
    ∃ t, runInputs (setA s.build.kccBase (lengthOperand N) ++ setB s.build.kccBase (lengthOperand S)
          ++ [cmdEvent s.build.kccBase (.csInit v)] ++ feed s.build.kccBase (N ++ S)) s = .next t ∧
      t.sponge = absorb { spongeClear v with ds := 0x04#8 }
        (bytepad (encodeString N ++ encodeString S) (rateOf v)) ∧
      t.phase = .csAbsorb ∧ Ready t

/-- 43_kmac.md R557: after KMAC_INIT completes, S is the fresh sponge of the variant after absorbing
bytepad(encode_string("KMAC") || encode_string(S), R) || pad0(left_encode(R) || left_encode(8|K|) || K) || Z, with pos = 0;
R556: the snapshot is then a copy of S and valid if RESETTABLE = 1, else it stays cleared, and PHASE is KM_KEYED. -/
def Obligations.KmacInitAbsorbsTheKeyBlock : Prop :=
  ∀ (v : Variant) (K S : List Byte) (s : State), Ready s → s.rst = false →
    K.length < 2 ^ 61 → S.length < 2 ^ 61 →
    ∃ t, runInputs (setA s.build.kccBase (lengthOperand K) ++ setB s.build.kccBase (lengthOperand S)
          ++ [cmdEvent s.build.kccBase (.kmacInit v)] ++ feed s.build.kccBase (S ++ K)) s = .next t ∧
      t.sponge = absorb { spongeClear v with ds := 0x04#8 }
        (bytepad (encodeString functionName ++ encodeString S) (rateOf v)
          ++ keyBlock s.build.keypadOnBoundary (rateOf v) K) ∧
      t.sponge.pos = 0 ∧ t.phase = .kmKeyed ∧ Ready t ∧ t.snapValid = s.build.resettable ∧
      t.snap = (if s.build.resettable then snapshotOf t.sponge else Snapshot.reset)

/-- 42_sponge_cshake.md R528: for any N, S, X and L the bytes returned by the accesses of CSHAKE.v N, S, X, L are
cSHAKE(X, 8L, N, S), and SHAKE(X, 8L) for N = S = "". -/
def Obligations.CshakeAccessesReturnCshake : Prop :=
  ∀ (v : Variant) (N S X : List Byte) (L : Nat) (s : State), Ready s → s.rst = false →
    N.length < 2 ^ 61 → S.length < 2 ^ 61 → X.length < 2 ^ 64 →
    ∃ t, runInputs (cshake s.build.kccBase v N S X L) s = .next t ∧
      outputBytes (t.observed.drop s.observed.length) L = cshakeOutput v N S X L ∧
      t.phase = .csSqueeze ∧ Ready t

/-- 43_kmac.md R561: for any K, S, X and L the bytes returned by the accesses of KMACXOF.v K, S, X, L are the first L output
bytes over the string of R557, then X, then [00, 01], padded with ds = 0x04; when Z is absent they are KMACXOF of
SP 800-185. -/
def Obligations.KmacxofAccessesReturnKmacxof : Prop :=
  ∀ (v : Variant) (K S X : List Byte) (L : Nat) (s : State), Ready s → s.rst = false →
    K.length < 2 ^ 61 → S.length < 2 ^ 61 → X.length < 2 ^ 64 →
    ∃ t, runInputs (kmacxof s.build.kccBase v K S X L) s = .next t ∧
      outputBytes (t.observed.drop s.observed.length) L =
        spongeOutput v 0x04#8 (bytepad (encodeString functionName ++ encodeString S) (rateOf v)
          ++ keyBlock s.build.keypadOnBoundary (rateOf v) K ++ X ++ [0x00#8, 0x01#8]) L ∧
      (s.build.keypadOnBoundary = .noBlock ∨
          (3 + minlen (8 * lengthOperand K) + K.length) % rateOf v ≠ 0 →
        outputBytes (t.observed.drop s.observed.length) L = standardKmacxof v K S X L) ∧
      t.phase = .kmSqueeze ∧ Ready t

/-- 43_kmac.md R564: with RESETTABLE = 1, KMACXOF.v K, S, A, L1 and then KMAC_AGAIN B, L2 returns last the same L2 bytes as
KMACXOF.v K, S, B, L2. -/
def Obligations.KeyedResetLaw : Prop :=
  ∀ (v : Variant) (K S A B : List Byte) (L1 L2 : Nat) (s : State), Ready s → s.rst = false →
    s.build.resettable = true →
    K.length < 2 ^ 61 → S.length < 2 ^ 61 → A.length < 2 ^ 64 → B.length < 2 ^ 64 →
    ∃ t u,
      runInputs (kmacxof s.build.kccBase v K S A L1 ++ kmacAgain s.build.kccBase B L2) s = .next t ∧
      runInputs (kmacxof s.build.kccBase v K S B L2) s = .next u ∧
      (readWords (t.observed.drop s.observed.length)).length = (L1 + 3) / 4 + (L2 + 3) / 4 ∧
      (((readWords (t.observed.drop s.observed.length)).drop ((L1 + 3) / 4)).flatMap wordBytes).take L2 =
        outputBytes (u.observed.drop s.observed.length) L2

/-! Registers -/

/-- 10_state.md R105, R106, 44_control.md R606: the fields of the STATUS word. -/
def Obligations.StatusWordFields : Prop :=
  ∀ s : State, (readReg .status s).2 = s ∧
    let w := (readReg .status s).1
    w.extractLsb' 0 3 = (match s.phase with
      | .idle => 0 | .csAbsorb => 1 | .kmKeyed => 2 | .kmAbsorb => 3 | .csSqueeze => 4 | .kmSqueeze => 5) ∧
    w.getLsbD 3 = decide (s.sponge.var = .v256) ∧
    w.getLsbD 4 = s.snapValid ∧
    w.getLsbD 5 = decide (s.pend.op ≠ .idle) ∧
    w.getLsbD 6 = s.err.err ∧
    w.getLsbD 7 = false ∧
    w.extractLsb' 8 4 = (match s.err.cause with
      | .noError => 0 | .illegalCmd => 1 | .badPhase => 2 | .protocol => 3 | .length => 4 | .noSnapshot => 5) ∧
    w.extractLsb' 12 2 = (match s.err.src with
      | .noSource => 0 | .cmdWrite => 1 | .dinWrite => 2 | .doutRead => 3) ∧
    w.extractLsb' 14 2 = 0 ∧
    w.extractLsb' 16 8 = (match s.pend.op with
      | .idle => 0x00 | .csInit => 0x01 | .absorb => 0x02 | .kmacInit => 0x04) ∧
    w.extractLsb' 24 8 = s.err.op

/-- 10_state.md R112: REM reads the low 32 bits of the stream bytes the pending command still needs, 0 when PEND = 0, and a
write of it is ignored. -/
def Obligations.RemReadsBytesDue : Prop :=
  ∀ s : State,
    (readReg .rem s).2 = s ∧
    (readReg .rem s).1.toNat = (if s.pend.op = .idle then 0 else s.bytesDue % 2 ^ 32) ∧
    ∀ v : Word, writeReg .rem v s = .next s

/-- 44_control.md R604: reads of these registers return their current value with no side effect, in every state; a read of
CMD or DIN returns 0. -/
def Obligations.PureReads : Prop :=
  ∀ s : State,
    readReg .id s = (0x4B4D4143#32, s) ∧ readReg .hwcfg s = (hwcfgWord s.build, s) ∧
    readReg .status s = (statusWord s, s) ∧
    readReg .lenaLo s = (s.lenaLo, s) ∧ readReg .lenaHi s = (s.lenaHi, s) ∧
    readReg .lenbLo s = (s.lenbLo, s) ∧ readReg .lenbHi s = (s.lenbHi, s) ∧
    ((readReg .encLen s).1.toNat = s.encLen.toNat ∧ (readReg .encLen s).2 = s) ∧
    readReg .encW0 s = (s.encW0, s) ∧ readReg .encW1 s = (s.encW1, s) ∧ readReg .encW2 s = (s.encW2, s) ∧
    ((readReg .inten s).1 = (if s.errie then 1#32 else 0#32) ∧ (readReg .inten s).2 = s) ∧
    readReg .rem s = (remWord s, s) ∧
    readReg .cmd s = (0x00000000#32, s) ∧ readReg .din s = (0x00000000#32, s)

/-- 44_control.md R605: a write to ID, HWCFG, STATUS, DOUT, ENC_LEN, ENC_W0, ENC_W1, ENC_W2 or REM changes no state and
raises no error. -/
def Obligations.IgnoredWrites : Prop :=
  ∀ (r : Reg) (v : Word) (s : State),
    r ∈ [Reg.id, .hwcfg, .status, .dout, .encLen, .encW0, .encW1, .encW2, .rem] → writeReg r v s = .next s

/-- 44_control.md R602, 10_state.md R107: a write to a half of LENA or LENB sets that half, in every state, and changes
nothing else: the operand is its two halves, and a pending command keeps what it latched. -/
def Obligations.LengthWritesSetOneHalf : Prop :=
  ∀ (v : Word) (s : State),
    (∃ t, writeReg .lenaLo v s = .next t ∧ t = { s with lenaLo := v } ∧ t.pend = s.pend ∧
      t.lena.toNat = s.lena.toNat / 2 ^ 32 * 2 ^ 32 + v.toNat ∧ t.lenb = s.lenb) ∧
    (∃ t, writeReg .lenaHi v s = .next t ∧ t = { s with lenaHi := v } ∧ t.pend = s.pend ∧
      t.lena.toNat = v.toNat * 2 ^ 32 + s.lena.toNat % 2 ^ 32 ∧ t.lenb = s.lenb) ∧
    (∃ t, writeReg .lenbLo v s = .next t ∧ t = { s with lenbLo := v } ∧ t.pend = s.pend ∧
      t.lenb.toNat = s.lenb.toNat / 2 ^ 32 * 2 ^ 32 + v.toNat ∧ t.lena = s.lena) ∧
    (∃ t, writeReg .lenbHi v s = .next t ∧ t = { s with lenbHi := v } ∧ t.pend = s.pend ∧
      t.lenb.toNat = v.toNat * 2 ^ 32 + s.lenb.toNat % 2 ^ 32 ∧ t.lena = s.lena)

/-- 44_control.md R603: a write of INTEN sets ERRIE to bit 0 of the word and ignores the rest, in every state; irq follows at
once. -/
def Obligations.IntenWritesSetErrie : Prop :=
  ∀ (v : Word) (s : State),
    ∃ t, writeReg .inten v s = .next t ∧ t = { s with errie := decide (v.toNat % 2 = 1) } ∧
      irq t = (s.err.err && decide (v.toNat % 2 = 1))

/-- 42_sponge_cshake.md R524, R525: a DOUT read in a squeeze phase returns the next four output bytes, little-endian, and
changes only the sponge; in any other phase it returns 0, and raises BAD_PHASE if ERR = 0. -/
def Obligations.DoutReads : Prop :=
  (∀ s : State, s.err.err = false → s.phase = .csSqueeze ∨ s.phase = .kmSqueeze →
    let q0 := squeezeByte s.sponge
    let q1 := squeezeByte q0.2
    let q2 := squeezeByte q1.2
    let q3 := squeezeByte q2.2
    (readReg .dout s).1.toNat = q0.1.toNat + 2 ^ 8 * q1.1.toNat + 2 ^ 16 * q2.1.toNat + 2 ^ 24 * q3.1.toNat ∧
    (readReg .dout s).2 = { s with sponge := q3.2 }) ∧
  (∀ s : State, s.phase ≠ .csSqueeze → s.phase ≠ .kmSqueeze →
    readReg .dout s =
      (0x00000000#32,
        if s.err.err then s
        else { s with err := { err := true, cause := .badPhase, src := .doutRead, op := 0x00#8 } }))

/-- 10_state.md R103: ID reads 0x4B4D4143 always; HWCFG reads RESETTABLE in bit 0, ZERO_BLOCK in bit 1 and 0 above, 3 with
this hardware's defaults; writes to them are ignored. -/
def Obligations.IdentityRegisters : Prop :=
  (∀ s : State, readReg .id s = (0x4B4D4143#32, s) ∧ (readReg .hwcfg s).2 = s ∧
    (readReg .hwcfg s).1.getLsbD 0 = s.build.resettable ∧
    (readReg .hwcfg s).1.getLsbD 1 = decide (s.build.keypadOnBoundary = .zeroBlock) ∧
    (readReg .hwcfg s).1.toNat / 4 = 0) ∧
  (readReg .hwcfg State.reset).1 = 0x00000003#32 ∧
  (∀ (v : Word) (s : State), writeReg .id v s = .next s ∧ writeReg .hwcfg v s = .next s)

/-- 10_state.md R102, 20_memory.md R202, R203: the register at each offset from KCC_BASE; only bits [5:2] of the address
minus KCC_BASE matter, and the strobes do not. -/
def Obligations.AddressDecode : Prop :=
  (∀ base : Address, ∀ p ∈ ([(0x00, .id), (0x04, .hwcfg), (0x08, .cmd), (0x0C, .status), (0x10, .lenaLo),
      (0x14, .lenaHi), (0x18, .lenbLo), (0x1C, .lenbHi), (0x20, .din), (0x24, .dout), (0x28, .encLen),
      (0x2C, .encW0), (0x30, .encW1), (0x34, .encW2), (0x38, .inten), (0x3C, .rem)] : List (Nat × Reg)),
    selectReg base (base + BitVec.ofNat 64 p.1) = p.2) ∧
  (∀ (a1 a2 : Address) (m1 m2 : BitVec 4) (v : Word) (s : State),
    (a1 - s.build.kccBase).toNat % 64 / 4 = (a2 - s.build.kccBase).toNat % 64 / 4 →
    performAccess (.write a1 m1 v) s = performAccess (.write a2 m2 v) s ∧
    performAccess (.read a1 m1) s = performAccess (.read a2 m2) s)

/-- 60_exceptions.md R710: irq = ERR & INTEN.ERRIE, recomputed after every access. -/
def Obligations.IrqAfterEveryAccess : Prop :=
  ∀ (s t : State) (a : BusAccess) (rest : List HostEvent),
    s.inputs = .access a :: rest → step s = .next t →
    irq t = (t.err.err && t.errie) ∧
    ∃ o, t.observed = s.observed ++ [o] ∧
      (o = .wrote (t.err.err && t.errie) ∨ ∃ v, o = .returned v (t.err.err && t.errie))

/-! The whole machine -/

/-- 70_reset_and_hazards.md R802: neither reset nor any access changes the build parameters, and HWCFG always reads them. -/
def Obligations.BuildParametersNeverChange : Prop :=
  (∀ s t : State, step s = .next t → t.build = s.build) ∧
  (∀ s : State, (readReg .hwcfg s).1 =
    (if s.build.resettable then 1#32 else 0#32) + (if s.build.keypadOnBoundary = .zeroBlock then 2#32 else 0#32))

/-- 10_state.md R121: the reset state meets the invariant. -/
def Obligations.ResetSatisfiesInvariant : Prop := State.reset.Inv

/-- 10_state.md R121 and what the rules of the commands imply: from every state that meets the invariant, every step that
answers a next state gives one that meets it. -/
def Obligations.StepKeepsInvariant : Prop :=
  ∀ s t : State, s.Inv → step s = .next t → t.Inv

/-- 10_state.md R125: no access reads the key, S or SNAP. Two states that differ only in S.A and SNAP.A answer every event
alike, with the same observation, but for a DOUT read in a squeeze phase; and after that one too they differ only in
S.A, SNAP.A and the value read. -/
def Obligations.NoReadPathToSecrets : Prop :=
  ∀ s1 s2 t1 : State, s1.withoutSecrets = s2.withoutSecrets → step s1 = .next t1 →
    ∃ t2, step s2 = .next t2 ∧
      { t1.withoutSecrets with observed := [] } = { t2.withoutSecrets with observed := [] } ∧
      ((∀ addr m rest, s1.inputs = .access (.read addr m) :: rest → selectReg s1.build.kccBase addr = .dout →
          s1.err.err = true ∨ (s1.phase ≠ .csSqueeze ∧ s1.phase ≠ .kmSqueeze)) →
        t1.withoutSecrets = t2.withoutSecrets)

/-- 10_state.md R122: a step that changes SNAP or SNAP_VALID either clears them, or is the completion of a KMAC_INIT of a
resettable core, which copies the sponge. -/
def Obligations.SnapshotWrittenOnlyByKmacInit : Prop :=
  ∀ s t : State, step s = .next t → ¬ (t.snap = s.snap ∧ t.snapValid = s.snapValid) →
    (t.snap = Snapshot.reset ∧ t.snapValid = false) ∨
    (s.build.resettable = true ∧ t.snapValid = true ∧ t.snap = snapshotOf t.sponge ∧ t.phase = .kmKeyed ∧
      t.pend.op = .idle ∧
      ∃ addr m w rest, s.inputs = .access (.write addr m w) :: rest ∧
        ((selectReg s.build.kccBase addr = .din ∧ s.pend.op = .kmacInit) ∨
         (selectReg s.build.kccBase addr = .cmd ∧ (w = 0x00000004#32 ∨ w = 0x00000104#32))))

/-- 43_kmac.md R576: with RESETTABLE = 0, only KMAC_INIT, CS_INIT or SOFT_RESET (or hardware reset) leave KM_SQUEEZE, and
KMAC_RESTORE raises NO_SNAPSHOT. -/
def Obligations.NonResettableSqueezeIsTerminal : Prop :=
  ∀ s : State, s.Inv → s.build.resettable = false → s.phase = .kmSqueeze →
    (Ready s → exec .kmacRestore s =
      .next { s with err := { err := true, cause := .noSnapshot, src := .cmdWrite, op := 0x06#8 } }) ∧
    ∀ t, step s = .next t → t.phase ≠ .kmSqueeze →
      ∃ e rest, s.inputs = e :: rest ∧
        ((∃ addr m w, e = .access (.write addr m w) ∧ selectReg s.build.kccBase addr = .cmd ∧
            w ∈ ([0x00000001, 0x00000101, 0x00000004, 0x00000104, 0x000000FF] : List Word)) ∨
          e = .assertRst ∨ (∃ a, e = .assertRstDuring a) ∨ e = .releaseRst)
end

