-- ==== Sys2Proof/Laws/State.lean ====
section
/-! SUPPORT. One lemma for each field and each update of State by a shared operation, true by rfl (simp set). -/

namespace Sys2Proof.Laws
open Sys2Proof.Machine

/-! raiseError -/

@[simp] theorem raiseError_build (c : ErrCause) (r : ErrSrc) (o : Byte) (s : State) : (raiseError c r o s).build = s.build := rfl
@[simp] theorem raiseError_sponge (c : ErrCause) (r : ErrSrc) (o : Byte) (s : State) : (raiseError c r o s).sponge = s.sponge := rfl
@[simp] theorem raiseError_snap (c : ErrCause) (r : ErrSrc) (o : Byte) (s : State) : (raiseError c r o s).snap = s.snap := rfl
@[simp] theorem raiseError_snapValid (c : ErrCause) (r : ErrSrc) (o : Byte) (s : State) : (raiseError c r o s).snapValid = s.snapValid := rfl
@[simp] theorem raiseError_pend (c : ErrCause) (r : ErrSrc) (o : Byte) (s : State) : (raiseError c r o s).pend = s.pend := rfl
@[simp] theorem raiseError_phase (c : ErrCause) (r : ErrSrc) (o : Byte) (s : State) : (raiseError c r o s).phase = s.phase := rfl
@[simp] theorem raiseError_err (c : ErrCause) (r : ErrSrc) (o : Byte) (s : State) : (raiseError c r o s).err = { err := true, cause := c, src := r, op := o } := rfl
@[simp] theorem raiseError_lenaLo (c : ErrCause) (r : ErrSrc) (o : Byte) (s : State) : (raiseError c r o s).lenaLo = s.lenaLo := rfl
@[simp] theorem raiseError_lenaHi (c : ErrCause) (r : ErrSrc) (o : Byte) (s : State) : (raiseError c r o s).lenaHi = s.lenaHi := rfl
@[simp] theorem raiseError_lenbLo (c : ErrCause) (r : ErrSrc) (o : Byte) (s : State) : (raiseError c r o s).lenbLo = s.lenbLo := rfl
@[simp] theorem raiseError_lenbHi (c : ErrCause) (r : ErrSrc) (o : Byte) (s : State) : (raiseError c r o s).lenbHi = s.lenbHi := rfl
@[simp] theorem raiseError_encLen (c : ErrCause) (r : ErrSrc) (o : Byte) (s : State) : (raiseError c r o s).encLen = s.encLen := rfl
@[simp] theorem raiseError_encW0 (c : ErrCause) (r : ErrSrc) (o : Byte) (s : State) : (raiseError c r o s).encW0 = s.encW0 := rfl
@[simp] theorem raiseError_encW1 (c : ErrCause) (r : ErrSrc) (o : Byte) (s : State) : (raiseError c r o s).encW1 = s.encW1 := rfl
@[simp] theorem raiseError_encW2 (c : ErrCause) (r : ErrSrc) (o : Byte) (s : State) : (raiseError c r o s).encW2 = s.encW2 := rfl
@[simp] theorem raiseError_errie (c : ErrCause) (r : ErrSrc) (o : Byte) (s : State) : (raiseError c r o s).errie = s.errie := rfl
@[simp] theorem raiseError_rst (c : ErrCause) (r : ErrSrc) (o : Byte) (s : State) : (raiseError c r o s).rst = s.rst := rfl
@[simp] theorem raiseError_inputs (c : ErrCause) (r : ErrSrc) (o : Byte) (s : State) : (raiseError c r o s).inputs = s.inputs := rfl
@[simp] theorem raiseError_observed (c : ErrCause) (r : ErrSrc) (o : Byte) (s : State) : (raiseError c r o s).observed = s.observed := rfl
@[simp] theorem raiseError_freeCount (c : ErrCause) (r : ErrSrc) (o : Byte) (s : State) : (raiseError c r o s).freeCount = s.freeCount := rfl

/-! snapClear -/

@[simp] theorem snapClear_build (s : State) : (snapClear s).build = s.build := rfl
@[simp] theorem snapClear_sponge (s : State) : (snapClear s).sponge = s.sponge := rfl
@[simp] theorem snapClear_snap (s : State) : (snapClear s).snap = Snapshot.reset := rfl
@[simp] theorem snapClear_snapValid (s : State) : (snapClear s).snapValid = false := rfl
@[simp] theorem snapClear_pend (s : State) : (snapClear s).pend = s.pend := rfl
@[simp] theorem snapClear_phase (s : State) : (snapClear s).phase = s.phase := rfl
@[simp] theorem snapClear_err (s : State) : (snapClear s).err = s.err := rfl
@[simp] theorem snapClear_lenaLo (s : State) : (snapClear s).lenaLo = s.lenaLo := rfl
@[simp] theorem snapClear_lenaHi (s : State) : (snapClear s).lenaHi = s.lenaHi := rfl
@[simp] theorem snapClear_lenbLo (s : State) : (snapClear s).lenbLo = s.lenbLo := rfl
@[simp] theorem snapClear_lenbHi (s : State) : (snapClear s).lenbHi = s.lenbHi := rfl
@[simp] theorem snapClear_encLen (s : State) : (snapClear s).encLen = s.encLen := rfl
@[simp] theorem snapClear_encW0 (s : State) : (snapClear s).encW0 = s.encW0 := rfl
@[simp] theorem snapClear_encW1 (s : State) : (snapClear s).encW1 = s.encW1 := rfl
@[simp] theorem snapClear_encW2 (s : State) : (snapClear s).encW2 = s.encW2 := rfl
@[simp] theorem snapClear_errie (s : State) : (snapClear s).errie = s.errie := rfl
@[simp] theorem snapClear_rst (s : State) : (snapClear s).rst = s.rst := rfl
@[simp] theorem snapClear_inputs (s : State) : (snapClear s).inputs = s.inputs := rfl
@[simp] theorem snapClear_observed (s : State) : (snapClear s).observed = s.observed := rfl
@[simp] theorem snapClear_freeCount (s : State) : (snapClear s).freeCount = s.freeCount := rfl

/-! setEncoding -/

@[simp] theorem setEncoding_build (E : List Byte) (s : State) : (setEncoding E s).build = s.build := rfl
@[simp] theorem setEncoding_sponge (E : List Byte) (s : State) : (setEncoding E s).sponge = s.sponge := rfl
@[simp] theorem setEncoding_snap (E : List Byte) (s : State) : (setEncoding E s).snap = s.snap := rfl
@[simp] theorem setEncoding_snapValid (E : List Byte) (s : State) : (setEncoding E s).snapValid = s.snapValid := rfl
@[simp] theorem setEncoding_pend (E : List Byte) (s : State) : (setEncoding E s).pend = s.pend := rfl
@[simp] theorem setEncoding_phase (E : List Byte) (s : State) : (setEncoding E s).phase = s.phase := rfl
@[simp] theorem setEncoding_err (E : List Byte) (s : State) : (setEncoding E s).err = s.err := rfl
@[simp] theorem setEncoding_lenaLo (E : List Byte) (s : State) : (setEncoding E s).lenaLo = s.lenaLo := rfl
@[simp] theorem setEncoding_lenaHi (E : List Byte) (s : State) : (setEncoding E s).lenaHi = s.lenaHi := rfl
@[simp] theorem setEncoding_lenbLo (E : List Byte) (s : State) : (setEncoding E s).lenbLo = s.lenbLo := rfl
@[simp] theorem setEncoding_lenbHi (E : List Byte) (s : State) : (setEncoding E s).lenbHi = s.lenbHi := rfl
@[simp] theorem setEncoding_encLen (E : List Byte) (s : State) : (setEncoding E s).encLen = BitVec.ofNat 4 E.length := rfl
@[simp] theorem setEncoding_encW0 (E : List Byte) (s : State) : (setEncoding E s).encW0 = packWord E := rfl
@[simp] theorem setEncoding_encW1 (E : List Byte) (s : State) : (setEncoding E s).encW1 = packWord (E.drop 4) := rfl
@[simp] theorem setEncoding_encW2 (E : List Byte) (s : State) : (setEncoding E s).encW2 = packWord (E.drop 8) := rfl
@[simp] theorem setEncoding_errie (E : List Byte) (s : State) : (setEncoding E s).errie = s.errie := rfl
@[simp] theorem setEncoding_rst (E : List Byte) (s : State) : (setEncoding E s).rst = s.rst := rfl
@[simp] theorem setEncoding_inputs (E : List Byte) (s : State) : (setEncoding E s).inputs = s.inputs := rfl
@[simp] theorem setEncoding_observed (E : List Byte) (s : State) : (setEncoding E s).observed = s.observed := rfl
@[simp] theorem setEncoding_freeCount (E : List Byte) (s : State) : (setEncoding E s).freeCount = s.freeCount := rfl

/-! onSponge -/

@[simp] theorem onSponge_build (f : Sponge → Sponge) (s : State) : (onSponge f s).build = s.build := rfl
@[simp] theorem onSponge_sponge (f : Sponge → Sponge) (s : State) : (onSponge f s).sponge = f s.sponge := rfl
@[simp] theorem onSponge_snap (f : Sponge → Sponge) (s : State) : (onSponge f s).snap = s.snap := rfl
@[simp] theorem onSponge_snapValid (f : Sponge → Sponge) (s : State) : (onSponge f s).snapValid = s.snapValid := rfl
@[simp] theorem onSponge_pend (f : Sponge → Sponge) (s : State) : (onSponge f s).pend = s.pend := rfl
@[simp] theorem onSponge_phase (f : Sponge → Sponge) (s : State) : (onSponge f s).phase = s.phase := rfl
@[simp] theorem onSponge_err (f : Sponge → Sponge) (s : State) : (onSponge f s).err = s.err := rfl
@[simp] theorem onSponge_lenaLo (f : Sponge → Sponge) (s : State) : (onSponge f s).lenaLo = s.lenaLo := rfl
@[simp] theorem onSponge_lenaHi (f : Sponge → Sponge) (s : State) : (onSponge f s).lenaHi = s.lenaHi := rfl
@[simp] theorem onSponge_lenbLo (f : Sponge → Sponge) (s : State) : (onSponge f s).lenbLo = s.lenbLo := rfl
@[simp] theorem onSponge_lenbHi (f : Sponge → Sponge) (s : State) : (onSponge f s).lenbHi = s.lenbHi := rfl
@[simp] theorem onSponge_encLen (f : Sponge → Sponge) (s : State) : (onSponge f s).encLen = s.encLen := rfl
@[simp] theorem onSponge_encW0 (f : Sponge → Sponge) (s : State) : (onSponge f s).encW0 = s.encW0 := rfl
@[simp] theorem onSponge_encW1 (f : Sponge → Sponge) (s : State) : (onSponge f s).encW1 = s.encW1 := rfl
@[simp] theorem onSponge_encW2 (f : Sponge → Sponge) (s : State) : (onSponge f s).encW2 = s.encW2 := rfl
@[simp] theorem onSponge_errie (f : Sponge → Sponge) (s : State) : (onSponge f s).errie = s.errie := rfl
@[simp] theorem onSponge_rst (f : Sponge → Sponge) (s : State) : (onSponge f s).rst = s.rst := rfl
@[simp] theorem onSponge_inputs (f : Sponge → Sponge) (s : State) : (onSponge f s).inputs = s.inputs := rfl
@[simp] theorem onSponge_observed (f : Sponge → Sponge) (s : State) : (onSponge f s).observed = s.observed := rfl
@[simp] theorem onSponge_freeCount (f : Sponge → Sponge) (s : State) : (onSponge f s).freeCount = s.freeCount := rfl

/-! observe -/

@[simp] theorem observe_build (o : Observation) (s : State) : (observe o s).build = s.build := rfl
@[simp] theorem observe_sponge (o : Observation) (s : State) : (observe o s).sponge = s.sponge := rfl
@[simp] theorem observe_snap (o : Observation) (s : State) : (observe o s).snap = s.snap := rfl
@[simp] theorem observe_snapValid (o : Observation) (s : State) : (observe o s).snapValid = s.snapValid := rfl
@[simp] theorem observe_pend (o : Observation) (s : State) : (observe o s).pend = s.pend := rfl
@[simp] theorem observe_phase (o : Observation) (s : State) : (observe o s).phase = s.phase := rfl
@[simp] theorem observe_err (o : Observation) (s : State) : (observe o s).err = s.err := rfl
@[simp] theorem observe_lenaLo (o : Observation) (s : State) : (observe o s).lenaLo = s.lenaLo := rfl
@[simp] theorem observe_lenaHi (o : Observation) (s : State) : (observe o s).lenaHi = s.lenaHi := rfl
@[simp] theorem observe_lenbLo (o : Observation) (s : State) : (observe o s).lenbLo = s.lenbLo := rfl
@[simp] theorem observe_lenbHi (o : Observation) (s : State) : (observe o s).lenbHi = s.lenbHi := rfl
@[simp] theorem observe_encLen (o : Observation) (s : State) : (observe o s).encLen = s.encLen := rfl
@[simp] theorem observe_encW0 (o : Observation) (s : State) : (observe o s).encW0 = s.encW0 := rfl
@[simp] theorem observe_encW1 (o : Observation) (s : State) : (observe o s).encW1 = s.encW1 := rfl
@[simp] theorem observe_encW2 (o : Observation) (s : State) : (observe o s).encW2 = s.encW2 := rfl
@[simp] theorem observe_errie (o : Observation) (s : State) : (observe o s).errie = s.errie := rfl
@[simp] theorem observe_rst (o : Observation) (s : State) : (observe o s).rst = s.rst := rfl
@[simp] theorem observe_inputs (o : Observation) (s : State) : (observe o s).inputs = s.inputs := rfl
@[simp] theorem observe_observed (o : Observation) (s : State) : (observe o s).observed = s.observed ++ [o] := rfl
@[simp] theorem observe_freeCount (o : Observation) (s : State) : (observe o s).freeCount = s.freeCount := rfl

/-! withInputs -/

@[simp] theorem withInputs_build (es : List HostEvent) (s : State) : (s.withInputs es).build = s.build := rfl
@[simp] theorem withInputs_sponge (es : List HostEvent) (s : State) : (s.withInputs es).sponge = s.sponge := rfl
@[simp] theorem withInputs_snap (es : List HostEvent) (s : State) : (s.withInputs es).snap = s.snap := rfl
@[simp] theorem withInputs_snapValid (es : List HostEvent) (s : State) : (s.withInputs es).snapValid = s.snapValid := rfl
@[simp] theorem withInputs_pend (es : List HostEvent) (s : State) : (s.withInputs es).pend = s.pend := rfl
@[simp] theorem withInputs_phase (es : List HostEvent) (s : State) : (s.withInputs es).phase = s.phase := rfl
@[simp] theorem withInputs_err (es : List HostEvent) (s : State) : (s.withInputs es).err = s.err := rfl
@[simp] theorem withInputs_lenaLo (es : List HostEvent) (s : State) : (s.withInputs es).lenaLo = s.lenaLo := rfl
@[simp] theorem withInputs_lenaHi (es : List HostEvent) (s : State) : (s.withInputs es).lenaHi = s.lenaHi := rfl
@[simp] theorem withInputs_lenbLo (es : List HostEvent) (s : State) : (s.withInputs es).lenbLo = s.lenbLo := rfl
@[simp] theorem withInputs_lenbHi (es : List HostEvent) (s : State) : (s.withInputs es).lenbHi = s.lenbHi := rfl
@[simp] theorem withInputs_encLen (es : List HostEvent) (s : State) : (s.withInputs es).encLen = s.encLen := rfl
@[simp] theorem withInputs_encW0 (es : List HostEvent) (s : State) : (s.withInputs es).encW0 = s.encW0 := rfl
@[simp] theorem withInputs_encW1 (es : List HostEvent) (s : State) : (s.withInputs es).encW1 = s.encW1 := rfl
@[simp] theorem withInputs_encW2 (es : List HostEvent) (s : State) : (s.withInputs es).encW2 = s.encW2 := rfl
@[simp] theorem withInputs_errie (es : List HostEvent) (s : State) : (s.withInputs es).errie = s.errie := rfl
@[simp] theorem withInputs_rst (es : List HostEvent) (s : State) : (s.withInputs es).rst = s.rst := rfl
@[simp] theorem withInputs_inputs (es : List HostEvent) (s : State) : (s.withInputs es).inputs = es := rfl
@[simp] theorem withInputs_observed (es : List HostEvent) (s : State) : (s.withInputs es).observed = s.observed := rfl
@[simp] theorem withInputs_freeCount (es : List HostEvent) (s : State) : (s.withInputs es).freeCount = s.freeCount := rfl

/-! clearBlock -/

@[simp] theorem clearBlock_build (s : State) : (clearBlock s).build = s.build := rfl
@[simp] theorem clearBlock_sponge (s : State) : (clearBlock s).sponge = State.reset.sponge := rfl
@[simp] theorem clearBlock_snap (s : State) : (clearBlock s).snap = State.reset.snap := rfl
@[simp] theorem clearBlock_snapValid (s : State) : (clearBlock s).snapValid = State.reset.snapValid := rfl
@[simp] theorem clearBlock_pend (s : State) : (clearBlock s).pend = State.reset.pend := rfl
@[simp] theorem clearBlock_phase (s : State) : (clearBlock s).phase = State.reset.phase := rfl
@[simp] theorem clearBlock_err (s : State) : (clearBlock s).err = State.reset.err := rfl
@[simp] theorem clearBlock_lenaLo (s : State) : (clearBlock s).lenaLo = State.reset.lenaLo := rfl
@[simp] theorem clearBlock_lenaHi (s : State) : (clearBlock s).lenaHi = State.reset.lenaHi := rfl
@[simp] theorem clearBlock_lenbLo (s : State) : (clearBlock s).lenbLo = State.reset.lenbLo := rfl
@[simp] theorem clearBlock_lenbHi (s : State) : (clearBlock s).lenbHi = State.reset.lenbHi := rfl
@[simp] theorem clearBlock_encLen (s : State) : (clearBlock s).encLen = State.reset.encLen := rfl
@[simp] theorem clearBlock_encW0 (s : State) : (clearBlock s).encW0 = State.reset.encW0 := rfl
@[simp] theorem clearBlock_encW1 (s : State) : (clearBlock s).encW1 = State.reset.encW1 := rfl
@[simp] theorem clearBlock_encW2 (s : State) : (clearBlock s).encW2 = State.reset.encW2 := rfl
@[simp] theorem clearBlock_errie (s : State) : (clearBlock s).errie = State.reset.errie := rfl
@[simp] theorem clearBlock_rst (s : State) : (clearBlock s).rst = s.rst := rfl
@[simp] theorem clearBlock_inputs (s : State) : (clearBlock s).inputs = s.inputs := rfl
@[simp] theorem clearBlock_observed (s : State) : (clearBlock s).observed = s.observed := rfl
@[simp] theorem clearBlock_freeCount (s : State) : (clearBlock s).freeCount = s.freeCount := rfl

/-! takeSnapshot -/

@[simp] theorem takeSnapshot_build (s : State) : (takeSnapshot s).build = s.build := by
  unfold takeSnapshot; split <;> rfl
@[simp] theorem takeSnapshot_sponge (s : State) : (takeSnapshot s).sponge = s.sponge := by
  unfold takeSnapshot; split <;> rfl
@[simp] theorem takeSnapshot_pend (s : State) : (takeSnapshot s).pend = s.pend := by
  unfold takeSnapshot; split <;> rfl
@[simp] theorem takeSnapshot_phase (s : State) : (takeSnapshot s).phase = s.phase := by
  unfold takeSnapshot; split <;> rfl
@[simp] theorem takeSnapshot_err (s : State) : (takeSnapshot s).err = s.err := by
  unfold takeSnapshot; split <;> rfl
@[simp] theorem takeSnapshot_lenaLo (s : State) : (takeSnapshot s).lenaLo = s.lenaLo := by
  unfold takeSnapshot; split <;> rfl
@[simp] theorem takeSnapshot_lenaHi (s : State) : (takeSnapshot s).lenaHi = s.lenaHi := by
  unfold takeSnapshot; split <;> rfl
@[simp] theorem takeSnapshot_lenbLo (s : State) : (takeSnapshot s).lenbLo = s.lenbLo := by
  unfold takeSnapshot; split <;> rfl
@[simp] theorem takeSnapshot_lenbHi (s : State) : (takeSnapshot s).lenbHi = s.lenbHi := by
  unfold takeSnapshot; split <;> rfl
@[simp] theorem takeSnapshot_encLen (s : State) : (takeSnapshot s).encLen = s.encLen := by
  unfold takeSnapshot; split <;> rfl
@[simp] theorem takeSnapshot_encW0 (s : State) : (takeSnapshot s).encW0 = s.encW0 := by
  unfold takeSnapshot; split <;> rfl
@[simp] theorem takeSnapshot_encW1 (s : State) : (takeSnapshot s).encW1 = s.encW1 := by
  unfold takeSnapshot; split <;> rfl
@[simp] theorem takeSnapshot_encW2 (s : State) : (takeSnapshot s).encW2 = s.encW2 := by
  unfold takeSnapshot; split <;> rfl
@[simp] theorem takeSnapshot_errie (s : State) : (takeSnapshot s).errie = s.errie := by
  unfold takeSnapshot; split <;> rfl
@[simp] theorem takeSnapshot_rst (s : State) : (takeSnapshot s).rst = s.rst := by
  unfold takeSnapshot; split <;> rfl
@[simp] theorem takeSnapshot_inputs (s : State) : (takeSnapshot s).inputs = s.inputs := by
  unfold takeSnapshot; split <;> rfl
@[simp] theorem takeSnapshot_observed (s : State) : (takeSnapshot s).observed = s.observed := by
  unfold takeSnapshot; split <;> rfl
@[simp] theorem takeSnapshot_freeCount (s : State) : (takeSnapshot s).freeCount = s.freeCount := by
  unfold takeSnapshot; split <;> rfl
@[simp] theorem takeSnapshot_snap (s : State) :
    (takeSnapshot s).snap = if s.build.resettable then snapshotOf s.sponge else s.snap := by
  unfold takeSnapshot; split <;> rfl
@[simp] theorem takeSnapshot_snapValid (s : State) :
    (takeSnapshot s).snapValid = (s.build.resettable || s.snapValid) := by
  unfold takeSnapshot; split <;> simp_all

end Sys2Proof.Laws
end

