-- ==== Sys2Proof/Laws/Ops.lean ====
section
/-! SUPPORT. The check sequence of 60_exceptions.md R702, said once: when a legal command is ignored, turned away or
performed; and that every command answers a next state. -/

namespace Sys2Proof.Laws
open Sys2Proof.Machine

/-- Everything `checked` can do. -/
theorem checked_cases (i : Instr) (p : State → State) (s : State) :
    (s.err.err = true ∧ checked i p s = .next s)
    ∨ (∃ c, s.err.err = false ∧ failedCheck i s = some c
        ∧ checked i p s = .next (raiseError c .cmdWrite i.opcode s))
    ∨ (s.err.err = false ∧ failedCheck i s = none ∧ checked i p s = .next (p s)) := by
  unfold checked
  cases he : s.err.err with
  | true => exact .inl ⟨rfl, by simp⟩
  | false =>
    cases hf : failedCheck i s with
    | some c => exact .inr (.inl ⟨c, rfl, rfl, by simp⟩)
    | none => exact .inr (.inr ⟨rfl, rfl, by simp⟩)

theorem checked_next (i : Instr) (p : State → State) (s : State) : ∃ t, checked i p s = .next t := by
  obtain ⟨_, h⟩ | ⟨c, _, _, h⟩ | ⟨_, _, h⟩ := checked_cases i p s
  all_goals exact ⟨_, h⟩

/-- A command that passes every check is performed. -/
theorem checked_performs {i : Instr} {p : State → State} {s : State} (he : s.err.err = false)
    (hf : failedCheck i s = none) : checked i p s = .next (p s) := by
  simp [checked, he, hf]

/-- A command that fails a check is recorded and has no other effect. -/
theorem checked_raises {i : Instr} {p : State → State} {s : State} {c : ErrCause} (he : s.err.err = false)
    (hf : failedCheck i s = some c) : checked i p s = .next (raiseError c .cmdWrite i.opcode s) := by
  simp [checked, he, hf]

/-- While ERR = 1 a command is ignored (60_exceptions.md R704). -/
theorem checked_halted {i : Instr} {p : State → State} {s : State} (he : s.err.err = true) :
    checked i p s = .next s := by
  simp [checked, he]

theorem pending_eq_false {s : State} : s.pending = false ↔ s.pend.op = .idle := by
  simp [State.pending]

theorem pending_eq_true {s : State} : s.pending = true ↔ s.pend.op ≠ .idle := by
  simp [State.pending]

/-- When no check fails. -/
theorem failedCheck_none {i : Instr} {s : State} :
    failedCheck i s = none ↔
      s.pend.op = .idle ∧ phaseAllowed i s.phase = true ∧ snapshotMissing i s = false ∧ lengthError i s = false := by
  unfold failedCheck
  rw [← pending_eq_false]
  cases s.pending <;> cases phaseAllowed i s.phase <;> cases snapshotMissing i s <;> cases lengthError i s <;> simp

/-- The effect of each command once every check has passed. -/
def effect : Instr → State → State
  | .nop => id
  | .csInit v => csInitEffect v
  | .absorb => absorbEffect
  | .csFinal => csFinalEffect
  | .kmacInit v => kmacInitEffect v
  | .kmacFinal => kmacFinalEffect
  | .kmacRestore => kmacRestoreEffect
  | .encLeft => encLeftEffect
  | .encRight => encRightEffect
  | .softReset => clearBlock

/-- Every command but SOFT_RESET is its effect behind the check sequence. -/
theorem exec_eq_checked {i : Instr} (h : i ≠ .softReset) (s : State) : exec i s = checked i (effect i) s := by
  cases i with
  | nop => rfl
  | csInit v => rfl
  | absorb => rfl
  | csFinal => rfl
  | kmacInit v => rfl
  | kmacFinal => rfl
  | kmacRestore => rfl
  | encLeft => rfl
  | encRight => rfl
  | softReset => exact absurd rfl h

theorem exec_softReset (s : State) : exec .softReset s = .next (clearBlock s) := rfl

/-- Every command, in every state, answers a next state: no instruction of KCC stops the machine. -/
theorem exec_next (i : Instr) (s : State) : ∃ t, exec i s = .next t := by
  by_cases h : i = .softReset
  · subst h; exact ⟨_, rfl⟩
  · rw [exec_eq_checked h]; exact checked_next _ _ _

/-- A command whose checks pass takes its effect. -/
theorem exec_performs {i : Instr} {s : State} (hi : i ≠ .softReset) (he : s.err.err = false)
    (hf : failedCheck i s = none) : exec i s = .next (effect i s) := by
  rw [exec_eq_checked hi, checked_performs he hf]

end Sys2Proof.Laws
end

