-- ==== Sys2Proof/Laws/Sponge.lean ====
section
/-! SUPPORT. What each sponge primitive keeps and where it leaves the positions. -/

namespace Sys2Proof.Laws
open Sys2Proof.Machine

theorem rateOf_pos (v : Variant) : 0 < rateOf v := by cases v <;> decide

theorem rateOf_le (v : Variant) : rateOf v ≤ 168 := by cases v <;> decide

/-! permuteBlock -/

@[simp] theorem permuteBlock_rate (S : Sponge) : (permuteBlock S).rate = S.rate := rfl
@[simp] theorem permuteBlock_var (S : Sponge) : (permuteBlock S).var = S.var := rfl
@[simp] theorem permuteBlock_ds (S : Sponge) : (permuteBlock S).ds = S.ds := rfl
@[simp] theorem permuteBlock_spos (S : Sponge) : (permuteBlock S).spos = S.spos := rfl
@[simp] theorem permuteBlock_pos (S : Sponge) : (permuteBlock S).pos = 0 := rfl
@[simp] theorem permuteBlock_lanes (S : Sponge) : (permuteBlock S).lanes = keccakF S.lanes := rfl

/-! absorbByte -/

@[simp] theorem absorbByte_rate (S : Sponge) (v : Byte) : (absorbByte S v).rate = S.rate := by
  unfold absorbByte; dsimp only; split <;> rfl
@[simp] theorem absorbByte_var (S : Sponge) (v : Byte) : (absorbByte S v).var = S.var := by
  unfold absorbByte; dsimp only; split <;> rfl
@[simp] theorem absorbByte_ds (S : Sponge) (v : Byte) : (absorbByte S v).ds = S.ds := by
  unfold absorbByte; dsimp only; split <;> rfl
@[simp] theorem absorbByte_spos (S : Sponge) (v : Byte) : (absorbByte S v).spos = S.spos := by
  unfold absorbByte; dsimp only; split <;> rfl

theorem absorbByte_pos (S : Sponge) (v : Byte) :
    (absorbByte S v).pos = if S.pos + 1 = S.rate then 0 else S.pos + 1 := by
  unfold absorbByte; dsimp only; split <;> rfl

theorem absorbByte_pos_lt {S : Sponge} (v : Byte) (h : S.pos < S.rate) :
    (absorbByte S v).pos < (absorbByte S v).rate := by
  rw [absorbByte_pos, absorbByte_rate]; split <;> omega

/-! absorb -/

@[simp] theorem absorb_nil (S : Sponge) : absorb S [] = S := rfl
@[simp] theorem absorb_cons (S : Sponge) (v : Byte) (B : List Byte) :
    absorb S (v :: B) = absorb (absorbByte S v) B := rfl
theorem absorb_append (S : Sponge) (X Y : List Byte) : absorb S (X ++ Y) = absorb (absorb S X) Y :=
  List.foldl_append
@[simp] theorem absorb_rate (S : Sponge) (B : List Byte) : (absorb S B).rate = S.rate := by
  induction B generalizing S with
  | nil => rfl
  | cons v B ih => rw [absorb_cons, ih, absorbByte_rate]
@[simp] theorem absorb_var (S : Sponge) (B : List Byte) : (absorb S B).var = S.var := by
  induction B generalizing S with
  | nil => rfl
  | cons v B ih => rw [absorb_cons, ih, absorbByte_var]
@[simp] theorem absorb_ds (S : Sponge) (B : List Byte) : (absorb S B).ds = S.ds := by
  induction B generalizing S with
  | nil => rfl
  | cons v B ih => rw [absorb_cons, ih, absorbByte_ds]
@[simp] theorem absorb_spos (S : Sponge) (B : List Byte) : (absorb S B).spos = S.spos := by
  induction B generalizing S with
  | nil => rfl
  | cons v B ih => rw [absorb_cons, ih, absorbByte_spos]
theorem absorb_pos_lt {S : Sponge} (B : List Byte) (h : S.pos < S.rate) :
    (absorb S B).pos < (absorb S B).rate := by
  induction B generalizing S with
  | nil => exact h
  | cons v B ih => exact ih (absorbByte_pos_lt v h)

/-- The position after absorbing B counts its bytes modulo the rate. -/
theorem absorb_pos {S : Sponge} (B : List Byte) (h : S.pos < S.rate) :
    (absorb S B).pos = (S.pos + B.length) % S.rate := by
  induction B generalizing S with
  | nil => simp [Nat.mod_eq_of_lt h]
  | cons v B ih =>
    have hp := absorbByte_pos S v
    rw [absorb_cons, ih (absorbByte_pos_lt v h), absorbByte_rate, hp, List.length_cons]
    split
    · rename_i e
      have : S.pos + (B.length + 1) = B.length + S.rate := by omega
      rw [this, Nat.add_mod_right, Nat.zero_add]
    · congr 1; omega

/-! padStd, finalPad, squeezeByte -/

@[simp] theorem padStd_rate (S : Sponge) : (padStd S).rate = S.rate := by unfold padStd; split <;> rfl
@[simp] theorem padStd_var (S : Sponge) : (padStd S).var = S.var := by unfold padStd; split <;> rfl
@[simp] theorem padStd_ds (S : Sponge) : (padStd S).ds = S.ds := by unfold padStd; split <;> rfl
@[simp] theorem padStd_spos (S : Sponge) : (padStd S).spos = S.spos := by unfold padStd; split <;> rfl
@[simp] theorem padStd_pos (S : Sponge) : (padStd S).pos = 0 := by
  unfold padStd; split
  · rfl
  · simp_all

@[simp] theorem finalPad_rate (S : Sponge) : (finalPad S).rate = S.rate := rfl
@[simp] theorem finalPad_var (S : Sponge) : (finalPad S).var = S.var := rfl
@[simp] theorem finalPad_ds (S : Sponge) : (finalPad S).ds = S.ds := rfl
@[simp] theorem finalPad_pos (S : Sponge) : (finalPad S).pos = 0 := rfl
@[simp] theorem finalPad_spos (S : Sponge) : (finalPad S).spos = 0 := rfl

@[simp] theorem squeezeByte_rate (S : Sponge) : (squeezeByte S).2.rate = S.rate := by
  unfold squeezeByte refillBlock; dsimp only; split <;> rfl
@[simp] theorem squeezeByte_var (S : Sponge) : (squeezeByte S).2.var = S.var := by
  unfold squeezeByte refillBlock; dsimp only; split <;> rfl
@[simp] theorem squeezeByte_ds (S : Sponge) : (squeezeByte S).2.ds = S.ds := by
  unfold squeezeByte refillBlock; dsimp only; split <;> rfl
@[simp] theorem squeezeByte_pos (S : Sponge) : (squeezeByte S).2.pos = S.pos := by
  unfold squeezeByte refillBlock; dsimp only; split <;> rfl
theorem squeezeByte_spos (S : Sponge) :
    (squeezeByte S).2.spos = if S.spos = S.rate then 1 else S.spos + 1 := by
  unfold squeezeByte refillBlock; dsimp only; split <;> rfl

/-- What squeezing n bytes keeps. -/
theorem squeezeBytes_keeps (n : Nat) (S : Sponge) :
    (squeezeBytes n S).2.rate = S.rate ∧ (squeezeBytes n S).2.var = S.var ∧
    (squeezeBytes n S).2.ds = S.ds ∧ (squeezeBytes n S).2.pos = S.pos := by
  induction n generalizing S with
  | zero => simp [squeezeBytes]
  | succ n ih => simpa [squeezeBytes] using ih (squeezeByte S).2

theorem squeezeBytes_spos_le (n : Nat) {S : Sponge} (h : S.spos ≤ S.rate) (hr : 0 < S.rate) :
    (squeezeBytes n S).2.spos ≤ S.rate := by
  induction n generalizing S with
  | zero => exact h
  | succ n ih =>
    have e : (squeezeByte S).2.spos ≤ (squeezeByte S).2.rate := by
      rw [squeezeByte_spos, squeezeByte_rate]; split <;> omega
    simpa [squeezeBytes] using ih e (by simpa using hr)

@[simp] theorem squeezeBytes_length (n : Nat) (S : Sponge) : (squeezeBytes n S).1.length = n := by
  induction n generalizing S with
  | zero => rfl
  | succ n ih => simp [squeezeBytes, ih]

end Sys2Proof.Laws
end

