-- ==== Sys2Proof/Laws/Stream.lean ====
section
/-! SUPPORT. Everything advance() and a stream byte can do (42_sponge_cshake.md R509, R520): the cases of advance, and the
fields no stream byte changes. -/

namespace Sys2Proof.Laws
open Sys2Proof.Machine

/-! The segment-end actions write S, SNAP and PHASE only. -/

@[simp] theorem endOfSegment1_build (s : State) : (endOfSegment1 s).build = s.build := by
  unfold endOfSegment1; cases s.pend.op <;> simp [csInitEnd1, kmacInitEnd1]
@[simp] theorem endOfSegment1_err (s : State) : (endOfSegment1 s).err = s.err := by
  unfold endOfSegment1; cases s.pend.op <;> simp [csInitEnd1, kmacInitEnd1]
@[simp] theorem endOfSegment1_lenaLo (s : State) : (endOfSegment1 s).lenaLo = s.lenaLo := by
  unfold endOfSegment1; cases s.pend.op <;> simp [csInitEnd1, kmacInitEnd1]
@[simp] theorem endOfSegment1_lenaHi (s : State) : (endOfSegment1 s).lenaHi = s.lenaHi := by
  unfold endOfSegment1; cases s.pend.op <;> simp [csInitEnd1, kmacInitEnd1]
@[simp] theorem endOfSegment1_lenbLo (s : State) : (endOfSegment1 s).lenbLo = s.lenbLo := by
  unfold endOfSegment1; cases s.pend.op <;> simp [csInitEnd1, kmacInitEnd1]
@[simp] theorem endOfSegment1_lenbHi (s : State) : (endOfSegment1 s).lenbHi = s.lenbHi := by
  unfold endOfSegment1; cases s.pend.op <;> simp [csInitEnd1, kmacInitEnd1]
@[simp] theorem endOfSegment1_encLen (s : State) : (endOfSegment1 s).encLen = s.encLen := by
  unfold endOfSegment1; cases s.pend.op <;> simp [csInitEnd1, kmacInitEnd1]
@[simp] theorem endOfSegment1_encW0 (s : State) : (endOfSegment1 s).encW0 = s.encW0 := by
  unfold endOfSegment1; cases s.pend.op <;> simp [csInitEnd1, kmacInitEnd1]
@[simp] theorem endOfSegment1_encW1 (s : State) : (endOfSegment1 s).encW1 = s.encW1 := by
  unfold endOfSegment1; cases s.pend.op <;> simp [csInitEnd1, kmacInitEnd1]
@[simp] theorem endOfSegment1_encW2 (s : State) : (endOfSegment1 s).encW2 = s.encW2 := by
  unfold endOfSegment1; cases s.pend.op <;> simp [csInitEnd1, kmacInitEnd1]
@[simp] theorem endOfSegment1_errie (s : State) : (endOfSegment1 s).errie = s.errie := by
  unfold endOfSegment1; cases s.pend.op <;> simp [csInitEnd1, kmacInitEnd1]
@[simp] theorem endOfSegment1_rst (s : State) : (endOfSegment1 s).rst = s.rst := by
  unfold endOfSegment1; cases s.pend.op <;> simp [csInitEnd1, kmacInitEnd1]
@[simp] theorem endOfSegment1_inputs (s : State) : (endOfSegment1 s).inputs = s.inputs := by
  unfold endOfSegment1; cases s.pend.op <;> simp [csInitEnd1, kmacInitEnd1]
@[simp] theorem endOfSegment1_observed (s : State) : (endOfSegment1 s).observed = s.observed := by
  unfold endOfSegment1; cases s.pend.op <;> simp [csInitEnd1, kmacInitEnd1]
@[simp] theorem endOfSegment1_freeCount (s : State) : (endOfSegment1 s).freeCount = s.freeCount := by
  unfold endOfSegment1; cases s.pend.op <;> simp [csInitEnd1, kmacInitEnd1]
@[simp] theorem endOfSegment1_pend (s : State) : (endOfSegment1 s).pend = s.pend := by
  unfold endOfSegment1; cases s.pend.op <;> simp [csInitEnd1, kmacInitEnd1]
@[simp] theorem endOfSegment1_snap (s : State) : (endOfSegment1 s).snap = s.snap := by
  unfold endOfSegment1; cases s.pend.op <;> simp [csInitEnd1, kmacInitEnd1]
@[simp] theorem endOfSegment1_snapValid (s : State) : (endOfSegment1 s).snapValid = s.snapValid := by
  unfold endOfSegment1; cases s.pend.op <;> simp [csInitEnd1, kmacInitEnd1]
@[simp] theorem endOfSegment1_phase (s : State) : (endOfSegment1 s).phase = s.phase := by
  unfold endOfSegment1; cases s.pend.op <;> simp [csInitEnd1, kmacInitEnd1]
@[simp] theorem endOfSegment2_build (s : State) : (endOfSegment2 s).build = s.build := by
  unfold endOfSegment2; cases s.pend.op <;> simp [csInitEnd2, kmacInitEnd2]
@[simp] theorem endOfSegment2_err (s : State) : (endOfSegment2 s).err = s.err := by
  unfold endOfSegment2; cases s.pend.op <;> simp [csInitEnd2, kmacInitEnd2]
@[simp] theorem endOfSegment2_lenaLo (s : State) : (endOfSegment2 s).lenaLo = s.lenaLo := by
  unfold endOfSegment2; cases s.pend.op <;> simp [csInitEnd2, kmacInitEnd2]
@[simp] theorem endOfSegment2_lenaHi (s : State) : (endOfSegment2 s).lenaHi = s.lenaHi := by
  unfold endOfSegment2; cases s.pend.op <;> simp [csInitEnd2, kmacInitEnd2]
@[simp] theorem endOfSegment2_lenbLo (s : State) : (endOfSegment2 s).lenbLo = s.lenbLo := by
  unfold endOfSegment2; cases s.pend.op <;> simp [csInitEnd2, kmacInitEnd2]
@[simp] theorem endOfSegment2_lenbHi (s : State) : (endOfSegment2 s).lenbHi = s.lenbHi := by
  unfold endOfSegment2; cases s.pend.op <;> simp [csInitEnd2, kmacInitEnd2]
@[simp] theorem endOfSegment2_encLen (s : State) : (endOfSegment2 s).encLen = s.encLen := by
  unfold endOfSegment2; cases s.pend.op <;> simp [csInitEnd2, kmacInitEnd2]
@[simp] theorem endOfSegment2_encW0 (s : State) : (endOfSegment2 s).encW0 = s.encW0 := by
  unfold endOfSegment2; cases s.pend.op <;> simp [csInitEnd2, kmacInitEnd2]
@[simp] theorem endOfSegment2_encW1 (s : State) : (endOfSegment2 s).encW1 = s.encW1 := by
  unfold endOfSegment2; cases s.pend.op <;> simp [csInitEnd2, kmacInitEnd2]
@[simp] theorem endOfSegment2_encW2 (s : State) : (endOfSegment2 s).encW2 = s.encW2 := by
  unfold endOfSegment2; cases s.pend.op <;> simp [csInitEnd2, kmacInitEnd2]
@[simp] theorem endOfSegment2_errie (s : State) : (endOfSegment2 s).errie = s.errie := by
  unfold endOfSegment2; cases s.pend.op <;> simp [csInitEnd2, kmacInitEnd2]
@[simp] theorem endOfSegment2_rst (s : State) : (endOfSegment2 s).rst = s.rst := by
  unfold endOfSegment2; cases s.pend.op <;> simp [csInitEnd2, kmacInitEnd2]
@[simp] theorem endOfSegment2_inputs (s : State) : (endOfSegment2 s).inputs = s.inputs := by
  unfold endOfSegment2; cases s.pend.op <;> simp [csInitEnd2, kmacInitEnd2]
@[simp] theorem endOfSegment2_observed (s : State) : (endOfSegment2 s).observed = s.observed := by
  unfold endOfSegment2; cases s.pend.op <;> simp [csInitEnd2, kmacInitEnd2]
@[simp] theorem endOfSegment2_freeCount (s : State) : (endOfSegment2 s).freeCount = s.freeCount := by
  unfold endOfSegment2; cases s.pend.op <;> simp [csInitEnd2, kmacInitEnd2]
@[simp] theorem endOfSegment2_pend (s : State) : (endOfSegment2 s).pend = s.pend := by
  unfold endOfSegment2; cases s.pend.op <;> simp [csInitEnd2, kmacInitEnd2]

/-! advance(), case by case -/

theorem advance_idle {s : State} (h : s.pend.op = .idle) : advance s = s := by
  simp [advance, advance1, advance2, h]

theorem advance_one_due {s : State} (hs : s.pend.seg = .one) (hr : s.pend.rem1 ≠ 0#64) : advance s = s := by
  simp [advance, advance1, advance2, hs, hr]

theorem advance_two_due {s : State} (hs : s.pend.seg = .two) (hr : s.pend.rem2 ≠ 0#64) : advance s = s := by
  simp [advance, advance1, advance2, hs, hr]

/-- Segment 1 ends and segment 2 has bytes due. -/
theorem advance_end1 {s : State} (hp : s.pend.op ≠ .idle) (hs : s.pend.seg = .one) (h1 : s.pend.rem1 = 0#64)
    (h2 : s.pend.rem2 ≠ 0#64) :
    advance s = { endOfSegment1 s with pend := { s.pend with seg := .two } } := by
  simp [advance, advance1, advance2, hp, hs, h1, h2]

/-- Segment 2 ends. -/
theorem advance_end2 {s : State} (hp : s.pend.op ≠ .idle) (hs : s.pend.seg = .two) (h2 : s.pend.rem2 = 0#64) :
    advance s = { endOfSegment2 s with pend := { s.pend with op := .idle } } := by
  simp [advance, advance1, advance2, hp, hs, h2]

/-- Segment 1 ends, and the empty segment 2 with it. -/
theorem advance_end12 {s : State} (hp : s.pend.op ≠ .idle) (hs : s.pend.seg = .one) (h1 : s.pend.rem1 = 0#64)
    (h2 : s.pend.rem2 = 0#64) :
    advance s = { endOfSegment2 { endOfSegment1 s with pend := { s.pend with seg := .two } } with
      pend := { s.pend with seg := .two, op := .idle } } := by
  simp [advance, advance1, advance2, hp, hs, h1, h2]

/-- Everything advance() can do. -/
theorem advance_cases (s : State) :
    advance s = s
    ∨ (s.pend.op ≠ .idle ∧ s.pend.seg = .one ∧ s.pend.rem1 = 0#64 ∧ s.pend.rem2 ≠ 0#64 ∧
        advance s = { endOfSegment1 s with pend := { s.pend with seg := .two } })
    ∨ (s.pend.op ≠ .idle ∧ s.pend.seg = .two ∧ s.pend.rem2 = 0#64 ∧
        advance s = { endOfSegment2 s with pend := { s.pend with op := .idle } })
    ∨ (s.pend.op ≠ .idle ∧ s.pend.seg = .one ∧ s.pend.rem1 = 0#64 ∧ s.pend.rem2 = 0#64 ∧
        advance s = { endOfSegment2 { endOfSegment1 s with pend := { s.pend with seg := .two } } with
          pend := { s.pend with seg := .two, op := .idle } }) := by
  by_cases hp : s.pend.op = .idle
  · exact .inl (advance_idle hp)
  cases hs : s.pend.seg with
  | one =>
    by_cases h1 : s.pend.rem1 = 0#64
    · by_cases h2 : s.pend.rem2 = 0#64
      · exact .inr (.inr (.inr ⟨hp, rfl, h1, h2, advance_end12 hp hs h1 h2⟩))
      · exact .inr (.inl ⟨hp, rfl, h1, h2, advance_end1 hp hs h1 h2⟩)
    · exact .inl (advance_one_due hs h1)
  | two =>
    by_cases h2 : s.pend.rem2 = 0#64
    · exact .inr (.inr (.inl ⟨hp, rfl, h2, advance_end2 hp hs h2⟩))
    · exact .inl (advance_two_due hs h2)

/-! What a stream byte keeps -/

@[simp] theorem advance_build (s : State) : (advance s).build = s.build := by
  obtain h | ⟨_, _, _, _, h⟩ | ⟨_, _, _, h⟩ | ⟨_, _, _, _, h⟩ := advance_cases s <;> rw [h] <;> simp
@[simp] theorem consumeByte_build (v : Byte) (s : State) : (consumeByte v s).build = s.build := by simp [consumeByte]
@[simp] theorem consumeBytes_build (B : List Byte) (s : State) : (consumeBytes B s).build = s.build := by
  induction B generalizing s with
  | nil => rfl
  | cons v B ih => unfold consumeBytes; split <;> simp [ih]
@[simp] theorem advance_err (s : State) : (advance s).err = s.err := by
  obtain h | ⟨_, _, _, _, h⟩ | ⟨_, _, _, h⟩ | ⟨_, _, _, _, h⟩ := advance_cases s <;> rw [h] <;> simp
@[simp] theorem consumeByte_err (v : Byte) (s : State) : (consumeByte v s).err = s.err := by simp [consumeByte]
@[simp] theorem consumeBytes_err (B : List Byte) (s : State) : (consumeBytes B s).err = s.err := by
  induction B generalizing s with
  | nil => rfl
  | cons v B ih => unfold consumeBytes; split <;> simp [ih]
@[simp] theorem advance_lenaLo (s : State) : (advance s).lenaLo = s.lenaLo := by
  obtain h | ⟨_, _, _, _, h⟩ | ⟨_, _, _, h⟩ | ⟨_, _, _, _, h⟩ := advance_cases s <;> rw [h] <;> simp
@[simp] theorem consumeByte_lenaLo (v : Byte) (s : State) : (consumeByte v s).lenaLo = s.lenaLo := by simp [consumeByte]
@[simp] theorem consumeBytes_lenaLo (B : List Byte) (s : State) : (consumeBytes B s).lenaLo = s.lenaLo := by
  induction B generalizing s with
  | nil => rfl
  | cons v B ih => unfold consumeBytes; split <;> simp [ih]
@[simp] theorem advance_lenaHi (s : State) : (advance s).lenaHi = s.lenaHi := by
  obtain h | ⟨_, _, _, _, h⟩ | ⟨_, _, _, h⟩ | ⟨_, _, _, _, h⟩ := advance_cases s <;> rw [h] <;> simp
@[simp] theorem consumeByte_lenaHi (v : Byte) (s : State) : (consumeByte v s).lenaHi = s.lenaHi := by simp [consumeByte]
@[simp] theorem consumeBytes_lenaHi (B : List Byte) (s : State) : (consumeBytes B s).lenaHi = s.lenaHi := by
  induction B generalizing s with
  | nil => rfl
  | cons v B ih => unfold consumeBytes; split <;> simp [ih]
@[simp] theorem advance_lenbLo (s : State) : (advance s).lenbLo = s.lenbLo := by
  obtain h | ⟨_, _, _, _, h⟩ | ⟨_, _, _, h⟩ | ⟨_, _, _, _, h⟩ := advance_cases s <;> rw [h] <;> simp
@[simp] theorem consumeByte_lenbLo (v : Byte) (s : State) : (consumeByte v s).lenbLo = s.lenbLo := by simp [consumeByte]
@[simp] theorem consumeBytes_lenbLo (B : List Byte) (s : State) : (consumeBytes B s).lenbLo = s.lenbLo := by
  induction B generalizing s with
  | nil => rfl
  | cons v B ih => unfold consumeBytes; split <;> simp [ih]
@[simp] theorem advance_lenbHi (s : State) : (advance s).lenbHi = s.lenbHi := by
  obtain h | ⟨_, _, _, _, h⟩ | ⟨_, _, _, h⟩ | ⟨_, _, _, _, h⟩ := advance_cases s <;> rw [h] <;> simp
@[simp] theorem consumeByte_lenbHi (v : Byte) (s : State) : (consumeByte v s).lenbHi = s.lenbHi := by simp [consumeByte]
@[simp] theorem consumeBytes_lenbHi (B : List Byte) (s : State) : (consumeBytes B s).lenbHi = s.lenbHi := by
  induction B generalizing s with
  | nil => rfl
  | cons v B ih => unfold consumeBytes; split <;> simp [ih]
@[simp] theorem advance_encLen (s : State) : (advance s).encLen = s.encLen := by
  obtain h | ⟨_, _, _, _, h⟩ | ⟨_, _, _, h⟩ | ⟨_, _, _, _, h⟩ := advance_cases s <;> rw [h] <;> simp
@[simp] theorem consumeByte_encLen (v : Byte) (s : State) : (consumeByte v s).encLen = s.encLen := by simp [consumeByte]
@[simp] theorem consumeBytes_encLen (B : List Byte) (s : State) : (consumeBytes B s).encLen = s.encLen := by
  induction B generalizing s with
  | nil => rfl
  | cons v B ih => unfold consumeBytes; split <;> simp [ih]
@[simp] theorem advance_encW0 (s : State) : (advance s).encW0 = s.encW0 := by
  obtain h | ⟨_, _, _, _, h⟩ | ⟨_, _, _, h⟩ | ⟨_, _, _, _, h⟩ := advance_cases s <;> rw [h] <;> simp
@[simp] theorem consumeByte_encW0 (v : Byte) (s : State) : (consumeByte v s).encW0 = s.encW0 := by simp [consumeByte]
@[simp] theorem consumeBytes_encW0 (B : List Byte) (s : State) : (consumeBytes B s).encW0 = s.encW0 := by
  induction B generalizing s with
  | nil => rfl
  | cons v B ih => unfold consumeBytes; split <;> simp [ih]
@[simp] theorem advance_encW1 (s : State) : (advance s).encW1 = s.encW1 := by
  obtain h | ⟨_, _, _, _, h⟩ | ⟨_, _, _, h⟩ | ⟨_, _, _, _, h⟩ := advance_cases s <;> rw [h] <;> simp
@[simp] theorem consumeByte_encW1 (v : Byte) (s : State) : (consumeByte v s).encW1 = s.encW1 := by simp [consumeByte]
@[simp] theorem consumeBytes_encW1 (B : List Byte) (s : State) : (consumeBytes B s).encW1 = s.encW1 := by
  induction B generalizing s with
  | nil => rfl
  | cons v B ih => unfold consumeBytes; split <;> simp [ih]
@[simp] theorem advance_encW2 (s : State) : (advance s).encW2 = s.encW2 := by
  obtain h | ⟨_, _, _, _, h⟩ | ⟨_, _, _, h⟩ | ⟨_, _, _, _, h⟩ := advance_cases s <;> rw [h] <;> simp
@[simp] theorem consumeByte_encW2 (v : Byte) (s : State) : (consumeByte v s).encW2 = s.encW2 := by simp [consumeByte]
@[simp] theorem consumeBytes_encW2 (B : List Byte) (s : State) : (consumeBytes B s).encW2 = s.encW2 := by
  induction B generalizing s with
  | nil => rfl
  | cons v B ih => unfold consumeBytes; split <;> simp [ih]
@[simp] theorem advance_errie (s : State) : (advance s).errie = s.errie := by
  obtain h | ⟨_, _, _, _, h⟩ | ⟨_, _, _, h⟩ | ⟨_, _, _, _, h⟩ := advance_cases s <;> rw [h] <;> simp
@[simp] theorem consumeByte_errie (v : Byte) (s : State) : (consumeByte v s).errie = s.errie := by simp [consumeByte]
@[simp] theorem consumeBytes_errie (B : List Byte) (s : State) : (consumeBytes B s).errie = s.errie := by
  induction B generalizing s with
  | nil => rfl
  | cons v B ih => unfold consumeBytes; split <;> simp [ih]
@[simp] theorem advance_rst (s : State) : (advance s).rst = s.rst := by
  obtain h | ⟨_, _, _, _, h⟩ | ⟨_, _, _, h⟩ | ⟨_, _, _, _, h⟩ := advance_cases s <;> rw [h] <;> simp
@[simp] theorem consumeByte_rst (v : Byte) (s : State) : (consumeByte v s).rst = s.rst := by simp [consumeByte]
@[simp] theorem consumeBytes_rst (B : List Byte) (s : State) : (consumeBytes B s).rst = s.rst := by
  induction B generalizing s with
  | nil => rfl
  | cons v B ih => unfold consumeBytes; split <;> simp [ih]
@[simp] theorem advance_inputs (s : State) : (advance s).inputs = s.inputs := by
  obtain h | ⟨_, _, _, _, h⟩ | ⟨_, _, _, h⟩ | ⟨_, _, _, _, h⟩ := advance_cases s <;> rw [h] <;> simp
@[simp] theorem consumeByte_inputs (v : Byte) (s : State) : (consumeByte v s).inputs = s.inputs := by simp [consumeByte]
@[simp] theorem consumeBytes_inputs (B : List Byte) (s : State) : (consumeBytes B s).inputs = s.inputs := by
  induction B generalizing s with
  | nil => rfl
  | cons v B ih => unfold consumeBytes; split <;> simp [ih]
@[simp] theorem advance_observed (s : State) : (advance s).observed = s.observed := by
  obtain h | ⟨_, _, _, _, h⟩ | ⟨_, _, _, h⟩ | ⟨_, _, _, _, h⟩ := advance_cases s <;> rw [h] <;> simp
@[simp] theorem consumeByte_observed (v : Byte) (s : State) : (consumeByte v s).observed = s.observed := by simp [consumeByte]
@[simp] theorem consumeBytes_observed (B : List Byte) (s : State) : (consumeBytes B s).observed = s.observed := by
  induction B generalizing s with
  | nil => rfl
  | cons v B ih => unfold consumeBytes; split <;> simp [ih]
@[simp] theorem advance_freeCount (s : State) : (advance s).freeCount = s.freeCount := by
  obtain h | ⟨_, _, _, _, h⟩ | ⟨_, _, _, h⟩ | ⟨_, _, _, _, h⟩ := advance_cases s <;> rw [h] <;> simp
@[simp] theorem consumeByte_freeCount (v : Byte) (s : State) : (consumeByte v s).freeCount = s.freeCount := by simp [consumeByte]
@[simp] theorem consumeBytes_freeCount (B : List Byte) (s : State) : (consumeBytes B s).freeCount = s.freeCount := by
  induction B generalizing s with
  | nil => rfl
  | cons v B ih => unfold consumeBytes; split <;> simp [ih]

/-! The position stays below the rate, which stays the variant's. -/

theorem keypad_pos (m : KeypadMode) (S : Sponge) : (keypad m S).pos = 0 := by
  cases m <;> simp [keypad]
@[simp] theorem keypad_rate (m : KeypadMode) (S : Sponge) : (keypad m S).rate = S.rate := by
  cases m <;> simp [keypad]
@[simp] theorem keypad_var (m : KeypadMode) (S : Sponge) : (keypad m S).var = S.var := by
  cases m <;> simp [keypad]
@[simp] theorem keypad_ds (m : KeypadMode) (S : Sponge) : (keypad m S).ds = S.ds := by
  cases m <;> simp [keypad]
@[simp] theorem keypad_spos (m : KeypadMode) (S : Sponge) : (keypad m S).spos = S.spos := by
  cases m <;> simp [keypad]

end Sys2Proof.Laws
end

