-- ==== Sys2Proof/Laws/Bus.lean ====
section
/-! SUPPORT. The register map (every word's address selects it), and what a register access and an event can do. -/

namespace Sys2Proof.Laws
open Sys2Proof.Machine

@[simp] theorem regAt_index (r : Reg) : regAt r.index = r := by cases r <;> rfl

/-- The address of a register's word selects it, wherever the window stands. -/
@[simp] theorem selectReg_regAddr (base : Address) (r : Reg) : selectReg base (regAddr base r) = r := by
  have h : regAddr base r - base = r.index.setWidth 64 <<< 2 := by
    rw [regAddr, BitVec.add_comm, BitVec.add_sub_cancel]
  rw [selectReg, h]
  cases r <;> rfl

/-- A read of any register but DOUT has no side effect (44_control.md R604). -/
theorem readReg_state {r : Reg} (h : r ≠ .dout) (s : State) : (readReg r s).2 = s := by
  cases r <;> first | rfl | exact absurd rfl h

/-- Everything a read of DOUT can do. -/
theorem readDout_cases (s : State) :
    (s.err.err = true ∧ readDout s = (0#32, s))
    ∨ (s.err.err = false ∧ squeezing s.phase = true ∧
        readDout s = (packWord (squeezeBytes 4 s.sponge).1, { s with sponge := (squeezeBytes 4 s.sponge).2 }))
    ∨ (s.err.err = false ∧ squeezing s.phase = false ∧
        readDout s = (0#32, raiseError .badPhase .doutRead 0x00#8 s)) := by
  unfold readDout
  cases s.err.err with
  | true => exact .inl ⟨rfl, by simp⟩
  | false =>
    cases squeezing s.phase with
    | true => exact .inr (.inl ⟨rfl, rfl, by simp⟩)
    | false => exact .inr (.inr ⟨rfl, rfl, by simp⟩)

/-- Everything a write of DIN can do. -/
theorem writeDin_cases (w : Word) (s : State) :
    (s.err.err = true ∧ writeDin w s = s)
    ∨ (s.err.err = false ∧ s.pend.op ≠ .idle ∧ writeDin w s = consumeBytes (wordBytes w) s)
    ∨ (s.err.err = false ∧ s.pend.op = .idle ∧ writeDin w s = raiseError .protocol .dinWrite 0x00#8 s) := by
  unfold writeDin
  cases s.err.err with
  | true => exact .inl ⟨rfl, by simp⟩
  | false =>
    by_cases hp : s.pend.op = .idle
    · exact .inr (.inr ⟨rfl, hp, by simp [pending_eq_false.2 hp]⟩)
    · exact .inr (.inl ⟨rfl, hp, by simp [pending_eq_true.2 hp]⟩)

/-- Everything a write of CMD can do (60_exceptions.md R702). -/
theorem writeCmd_cases (w : Word) (s : State) :
    (decode w = .ok .softReset ∧ writeCmd w s = .next (clearBlock s))
    ∨ (decode w ≠ .ok .softReset ∧ s.err.err = true ∧ writeCmd w s = .next s)
    ∨ (∃ e, decode w = .error e ∧ s.err.err = false ∧
        writeCmd w s = .next (raiseError .illegalCmd .cmdWrite (w.extractLsb' 0 8) s))
    ∨ (∃ i c, decode w = .ok i ∧ i ≠ .softReset ∧ s.err.err = false ∧ failedCheck i s = some c ∧
        writeCmd w s = .next (raiseError c .cmdWrite i.opcode s))
    ∨ (∃ i, decode w = .ok i ∧ i ≠ .softReset ∧ s.err.err = false ∧ failedCheck i s = none ∧
        writeCmd w s = .next (effect i s)) := by
  unfold writeCmd
  cases hd : decode w with
  | error e =>
    cases he : s.err.err with
    | true => exact .inr (.inl ⟨by simp, rfl, by simp⟩)
    | false => exact .inr (.inr (.inl ⟨e, rfl, rfl, by simp⟩))
  | ok i =>
    by_cases hi : i = .softReset
    · subst hi; exact .inl ⟨rfl, rfl⟩
    · simp only [exec_eq_checked hi s]
      obtain ⟨he, h⟩ | ⟨c, he, hf, h⟩ | ⟨he, hf, h⟩ := checked_cases i (effect i) s
      · exact .inr (.inl ⟨by simpa using hi, he, h⟩)
      · exact .inr (.inr (.inr (.inl ⟨i, c, rfl, hi, he, hf, h⟩)))
      · exact .inr (.inr (.inr (.inr ⟨i, rfl, hi, he, hf, h⟩)))

/-- A write of CMD answers a next state. -/
theorem writeCmd_next (w : Word) (s : State) : ∃ t, writeCmd w s = .next t := by
  obtain ⟨_, h⟩ | ⟨_, _, h⟩ | ⟨_, _, _, h⟩ | ⟨_, _, _, _, _, _, h⟩ | ⟨_, _, _, _, _, h⟩ := writeCmd_cases w s
  all_goals exact ⟨_, h⟩

/-- A write of any register answers a next state. -/
theorem writeReg_next (r : Reg) (v : Word) (s : State) : ∃ t, writeReg r v s = .next t := by
  cases r with
  | cmd => exact writeCmd_next v s
  | _ => exact ⟨_, rfl⟩

/-- A host access, spelt out: it always completes. -/
theorem performAccess_write (addr : Address) (m : BitVec 4) (v : Word) (s : State) :
    ∃ t, writeReg (selectReg s.build.kccBase addr) v s = .next t ∧
      performAccess (.write addr m v) s = .next (observe (.wrote (irq t)) t) := by
  obtain ⟨t, ht⟩ := writeReg_next (selectReg s.build.kccBase addr) v s
  exact ⟨t, ht, by simp [performAccess, ht]⟩

/-- Everything a step can do when it answers a next state: nothing to come, a write, a read, or an edge of rst. -/
theorem step_cases {s t : State} (h : step s = .next t) :
    (s.inputs = [] ∧ t = s)
    ∨ (∃ addr m v rest u, s.inputs = .access (.write addr m v) :: rest ∧ s.rst = false ∧
        writeReg (selectReg s.build.kccBase addr) v (s.withInputs rest) = .next u ∧
        t = observe (.wrote (irq u)) u)
    ∨ (∃ addr m rest, s.inputs = .access (.read addr m) :: rest ∧ s.rst = false ∧
        t = observe (.returned (readReg (selectReg s.build.kccBase addr) (s.withInputs rest)).1
              (irq (readReg (selectReg s.build.kccBase addr) (s.withInputs rest)).2))
            (readReg (selectReg s.build.kccBase addr) (s.withInputs rest)).2)
    ∨ (∃ rest, s.inputs = .assertRst :: rest ∧ t = assertReset (s.withInputs rest))
    ∨ (∃ a rest, s.inputs = .assertRstDuring a :: rest ∧ s.rst = false ∧
        t = assertReset (abandonAccess a (s.withInputs rest)))
    ∨ (∃ rest, s.inputs = .releaseRst :: rest ∧ t = releaseReset (s.withInputs rest)) := by
  unfold step at h
  split at h
  · rename_i hi; exact .inl ⟨hi, by simpa using h.symm⟩
  · rename_i e rest hi
    refine .inr ?_
    cases e with
    | access a =>
      by_cases hr : s.rst = true
      · simp [handleEvent, hr] at h
      · rw [Bool.not_eq_true] at hr
        cases a with
        | write addr m v =>
          obtain ⟨u, hu, hp⟩ := performAccess_write addr m v (s.withInputs rest)
          simp only [handleEvent, withInputs_rst, hr, hp] at h
          exact .inl ⟨addr, m, v, rest, u, hi, hr, hu, by simpa using h.symm⟩
        | read addr m =>
          exact .inr (.inl ⟨addr, m, rest, hi, hr, by simpa [handleEvent, hr, performAccess] using h.symm⟩)
    | assertRst => exact .inr (.inr (.inl ⟨rest, hi, by simpa [handleEvent] using h.symm⟩))
    | assertRstDuring a =>
      by_cases hr : s.rst = true
      · simp [handleEvent, hr] at h
      · rw [Bool.not_eq_true] at hr
        exact .inr (.inr (.inr (.inl ⟨a, rest, hi, hr, by simpa [handleEvent, hr] using h.symm⟩)))
    | releaseRst => exact .inr (.inr (.inr (.inr ⟨rest, hi, by simpa [handleEvent] using h.symm⟩)))

end Sys2Proof.Laws
end

