-- ==== Sys2Proof/Laws/Keccak.lean ====
section
/-! SUPPORT. Lanes of a built state, extensionality by lanes, and the lane formulas of the step mappings. -/

namespace Sys2Proof.Laws
open Sys2Proof.Machine

@[simp] theorem lane_mkLanes (g : Fin 5 → Fin 5 → Lane) (x y : Fin 5) : lane (mkLanes g) x y = g x y := by
  fin_cases x <;> fin_cases y <;> rfl

/-- Two states with the same lanes are equal. -/
theorem lanes_ext {A B : Lanes} (h : ∀ x y, lane A x y = lane B x y) : A = B := by
  apply Vector.ext
  intro i hi
  have := h ⟨i % 5, by omega⟩ ⟨i / 5, by omega⟩
  simp only [lane] at this
  have e : i % 5 + 5 * (i / 5) = i := by omega
  simpa only [e] using this

theorem mkLanes_lane (A : Lanes) : mkLanes (lane A) = A := lanes_ext fun x y => lane_mkLanes _ x y

theorem lane_theta (A : Lanes) (x y : Fin 5) : lane (theta A) x y = lane A x y ^^^ thetaD A x := by
  simp [theta]

theorem lane_rho (A : Lanes) (x y : Fin 5) : lane (rho A) x y = rotl64 (lane A x y) (rhoOffset x y) := by
  simp [rho]

theorem lane_pi (A : Lanes) (x y : Fin 5) : lane (pi A) x y = lane A (x + 3 * y) x := by
  simp [pi]

theorem lane_chi (A : Lanes) (x y : Fin 5) :
    lane (chi A) x y = lane A x y ^^^ (~~~(lane A (x + 1) y) &&& lane A (x + 2) y) := by
  simp [chi]

theorem lane_iota (A : Lanes) (ir : Nat) (x y : Fin 5) :
    lane (iota A ir) x y = if x = 0 ∧ y = 0 then lane A x y ^^^ roundConstant ir else lane A x y := by
  simp [iota]

end Sys2Proof.Laws
end

