-- ==== Sys2Proof/Laws/LengthEncode.lean ====
section
/-! SUPPORT. Lengths of the encodings, and the fixed encodings the envelope absorbs. -/

namespace Sys2Proof.Laws
open Sys2Proof.Machine

theorem minlen_pos (n : U64) : 1 ≤ minlen n := by
  unfold minlen; repeat' split
  all_goals omega

theorem minlen_le (n : U64) : minlen n ≤ 8 := by
  unfold minlen; repeat' split
  all_goals omega

@[simp] theorem bigEndianBytes_length (n : U64) (L : Nat) : (bigEndianBytes n L).length = L := by
  induction L with
  | zero => rfl
  | succ L ih => simp [bigEndianBytes, ih]

theorem leftEncode_length (n : U64) : (leftEncode n).length = minlen n + 1 := by
  simp [leftEncode, valueBytes]

theorem rightEncode_length (n : U64) : (rightEncode n).length = minlen n + 1 := by
  simp [rightEncode, valueBytes]

theorem leftEncode_length_bounds (n : U64) : 2 ≤ (leftEncode n).length ∧ (leftEncode n).length ≤ 9 := by
  have h1 := minlen_pos n
  have h2 := minlen_le n
  rw [leftEncode_length]; omega

theorem rightEncode_length_bounds (n : U64) : 2 ≤ (rightEncode n).length ∧ (rightEncode n).length ≤ 9 := by
  have h1 := minlen_pos n
  have h2 := minlen_le n
  rw [rightEncode_length]; omega

theorem finalSuffix_eq : finalSuffix = [0x00#8, 0x01#8] := by decide

theorem ratePrefix_128 : ratePrefix 168 = [0x01#8, 0xA8#8] := by decide

theorem ratePrefix_256 : ratePrefix 136 = [0x01#8, 0x88#8] := by decide

end Sys2Proof.Laws
end

