-- ==== Sys2Proof/Laws/PerInstr.lean ====
section
/-! SUPPORT. What is said of every instruction as syntax, one lemma for each constructor. -/

/-- The word of the instruction is legal: none of the conditions of 30_encoding.md R307 holds of it. -/
def Sys2Proof.Laws.EncodeLegal.Statement (i : Sys2Proof.Instr) : Prop :=
  Sys2Proof.CmdWord.wellFormed (Sys2Proof.encode i) = true

namespace Sys2Proof.Laws.EncodeLegal

theorem nop : Statement .nop := by unfold Statement; decide
theorem csInit (v : Variant) : Statement (.csInit v) := by cases v <;> (unfold Statement; decide)
theorem absorb : Statement .absorb := by unfold Statement; decide
theorem csFinal : Statement .csFinal := by unfold Statement; decide
theorem kmacInit (v : Variant) : Statement (.kmacInit v) := by cases v <;> (unfold Statement; decide)
theorem kmacFinal : Statement .kmacFinal := by unfold Statement; decide
theorem kmacRestore : Statement .kmacRestore := by unfold Statement; decide
theorem encLeft : Statement .encLeft := by unfold Statement; decide
theorem encRight : Statement .encRight := by unfold Statement; decide
theorem softReset : Statement .softReset := by unfold Statement; decide

end Sys2Proof.Laws.EncodeLegal
end

