-- ==== Sys2Proof/Laws/Safety.lean ====
section
/-! SUPPORT. When a state holds the reset values of 10_state.md R130: field by field, so that no proof compares two whole
states. -/

namespace Sys2Proof.Laws
open Sys2Proof.Machine

/-- A state whose fields are those right after reset holds the reset values. -/
theorem holdsResetValues_of_fields {t : State} (hs : t.sponge = Sponge.reset) (hn : t.snap = Snapshot.reset)
    (hv : t.snapValid = false) (hp : t.pend = Pending.reset) (hph : t.phase = .idle) (he : t.err = ErrLatch.reset)
    (ha : t.lenaLo = 0#32) (ha' : t.lenaHi = 0#32) (hb : t.lenbLo = 0#32) (hb' : t.lenbHi = 0#32)
    (hl : t.encLen = 0#4) (h0 : t.encW0 = 0#32) (h1 : t.encW1 = 0#32) (h2 : t.encW2 = 0#32)
    (hi : t.errie = false) : HoldsResetValues t where
  lanes x y := by simp [hs, Sponge.reset, lane]
  rate := by rw [hs]; rfl
  var := by rw [hs]; rfl
  pos := by rw [hs]; rfl
  ds := by rw [hs]; rfl
  spos := by rw [hs]; rfl
  snap := by rw [hs, hn]; rfl
  snap_valid := hv
  pend := by rw [hp]; rfl
  status := by simp only [statusWord, State.pending, hs, hv, hp, hph, he]; decide
  phase := hph
  err := by rw [he]; rfl
  lena := by rw [State.lena, ha, ha']; rfl
  lenb := by rw [State.lenb, hb, hb']; rfl
  enc := ⟨hl, h0, h1, h2⟩
  inten := hi
  rem := by simp only [remWord, State.pending, hp]; decide
  irq := by simp [irq, he, ErrLatch.reset]

end Sys2Proof.Laws
end

