-- ==== Sys2Proof/Tests/Slice0.lean ====
section
/-! SUPPORT. Tests with expected results from the spec (30_encoding.md R303, R304; 95_test_vectors.md), and for every
obligation with hypotheses a concrete state and operands that meet them. -/

namespace Sys2Proof.Tests
open Sys2Proof Sys2Proof.Machine

/-! ## Well-formedness: each check of 30_encoding.md R307 refuses an ill-formed word -/

theorem test_wellFormed_refuses_unknown_opcode :
    CmdWord.opKnown 0x00000009 = false ∧ CmdWord.wellFormed 0x00000009 = false ∧
    CmdWord.opKnown 0x000000FE = false ∧ CmdWord.wellFormed 0x000000FE = false := by decide
theorem test_wellFormed_refuses_reserved_bits :
    CmdWord.reservedClear 0x00000200 = false ∧ CmdWord.wellFormed 0x00000200 = false ∧
    CmdWord.reservedClear 0x80000000 = false ∧ CmdWord.wellFormed 0x80000000 = false := by decide
theorem test_wellFormed_refuses_variant_bit :
    CmdWord.variantAllowed 0x00000102 = false ∧ CmdWord.wellFormed 0x00000102 = false ∧
    CmdWord.variantAllowed 0x000001FF = false ∧ CmdWord.wellFormed 0x000001FF = false := by decide

/-! ## Decoding: RSV (23 bits), V (1 bit), OP (8 bits) written out from 30_encoding.md R301 and R303 -/

theorem test_decode_nop : decode (0b00000000000000000000000_0_00000000#32) = .ok .nop := by rfl
theorem test_decode_csInit :
    decode (0b00000000000000000000000_0_00000001#32) = .ok (.csInit .v128) ∧
    decode (0b00000000000000000000000_1_00000001#32) = .ok (.csInit .v256) := ⟨rfl, rfl⟩
theorem test_decode_absorb : decode (0b00000000000000000000000_0_00000010#32) = .ok .absorb := by rfl
theorem test_decode_csFinal : decode (0b00000000000000000000000_0_00000011#32) = .ok .csFinal := by rfl
theorem test_decode_kmacInit :
    decode (0b00000000000000000000000_0_00000100#32) = .ok (.kmacInit .v128) ∧
    decode (0b00000000000000000000000_1_00000100#32) = .ok (.kmacInit .v256) := ⟨rfl, rfl⟩
theorem test_decode_kmacFinal : decode (0b00000000000000000000000_0_00000101#32) = .ok .kmacFinal := by rfl
theorem test_decode_kmacRestore : decode (0b00000000000000000000000_0_00000110#32) = .ok .kmacRestore := by rfl
theorem test_decode_encLeft : decode (0b00000000000000000000000_0_00000111#32) = .ok .encLeft := by rfl
theorem test_decode_encRight : decode (0b00000000000000000000000_0_00001000#32) = .ok .encRight := by rfl
theorem test_decode_softReset : decode (0b00000000000000000000000_0_11111111#32) = .ok .softReset := by rfl
theorem test_decode_rejects :
    decode 0x00000009 = .error .unknownOp ∧ decode 0x00000102 = .error .variantBit ∧
    decode 0x000001FF = .error .variantBit ∧ decode 0x00000200 = .error .reservedBits ∧
    decode 0x80000000 = .error .reservedBits := ⟨rfl, rfl, rfl, rfl, rfl⟩
theorem test_decodeTableWord :
    decodeTableWord 32 0x104 = some (.kmacInit .v256) ∧ decodeTableWord 32 0x105 = none ∧
    decodeTableWord 64 0x100000001 = none := ⟨rfl, rfl, rfl⟩

/-! ## One step on a small state -/

/-- What is read off the state an outcome answers. -/
def seen {α : Type} (f : State → α) : Out → Option α
  | .next t => some (f t)
  | .fault _ => none
  | .refused _ => none

/-- STATUS after a word is written to CMD. -/
def statusAfter (w : Nat) (s : State) : Option Word := seen statusWord (step (s.withFetchWord 32 w))

/-- The encoder registers after a word is written to CMD. -/
def encAfter (w : Nat) (s : State) : Option (BitVec 4 × Word × Word × Word) :=
  seen (fun t => (t.encLen, t.encW0, t.encW1, t.encW2)) (step (s.withFetchWord 32 w))

/-- The reset state with operands. -/
def withLengths (aHi aLo bHi bLo : Word) : State :=
  { State.reset with lenaHi := aHi, lenaLo := aLo, lenbHi := bHi, lenbLo := bLo }

/-- A core in CS_ABSORB or CS_SQUEEZE after an empty CS_INIT.128. -/
def inShake (p : Phase) : State :=
  { State.reset with phase := p, sponge := { Sponge.reset with ds := 0x1F#8 } }

/-- A core in a KMAC phase, with a snapshot when `r` says it is resettable. -/
def inKmac (r : Bool) (p : Phase) : State :=
  { State.reset with
    build := { Config.thisHardware with resettable := r }
    phase := p
    sponge := { Sponge.reset with ds := 0x04#8 }
    snap := if r then { Snapshot.reset with ds := 0x04#8 } else Snapshot.reset
    snapValid := r }

/-- A CS_INIT.128 with |N| = n waiting for its stream. -/
def initPending (n : U64) : State :=
  { State.reset with
    sponge := { Sponge.reset with ds := 0x04#8 }
    pend := { op := .csInit, seg := .one, rem1 := n, rem2 := 0#64, a := n, b := 0#64 } }

/-- An ABSORB in CS_ABSORB waiting for three bytes. -/
def absorbPending : State :=
  { inShake .csAbsorb with pend := { op := .absorb, seg := .one, rem1 := 3, rem2 := 0, a := 3, b := 0 } }

/-- A halted core (60_exceptions.md R704). -/
def halted : State :=
  { State.reset with err := { err := true, cause := .badPhase, src := .cmdWrite, op := 0x03#8 } }

/-- The next access. -/
def withNext (e : HostEvent) (s : State) : State := { s with inputs := [e] }

/- Expected values: 95_test_vectors.md sections 2.1, 2.3, 2.4, 2.7 and programs P1 and P2. -/
theorem test_nop : statusAfter 0x000 State.reset = some 0x00000000 ∧ statusAfter 0x000 (initPending 4) = some 0x00011360 := by
  decide
theorem test_csInit : statusAfter 0x001 State.reset = some 0x00000001 ∧ statusAfter 0x101 State.reset = some 0x00000009 ∧
    statusAfter 0x001 (withLengths 0 3 0 0) = some 0x00010020 := by decide
theorem test_csInit_length : statusAfter 0x001 (withLengths 0x20000000 0 0 0) = some 0x01001440 ∧
    statusAfter 0x001 (withLengths 0x1FFFFFFF 0xFFFFFFFF 0 0) = some 0x00010020 := by decide
theorem test_absorb : statusAfter 0x002 (inKmac true .kmKeyed) = some 0x00000013 ∧
    statusAfter 0x002 { inKmac true .kmKeyed with lenaHi := 0xFFFFFFFF, lenaLo := 0xFFFFFFFF } = some 0x00020033 := by decide
theorem test_absorb_bad_phase : statusAfter 0x002 (inShake .csSqueeze) = some 0x02001244 ∧
    statusAfter 0x002 (inKmac true .kmSqueeze) = some 0x02001255 := by decide
theorem test_csFinal : statusAfter 0x003 State.reset = some 0x03001240 ∧
    statusAfter 0x003 (inKmac true .kmKeyed) = some 0x03001252 := by decide
theorem test_kmacInit : statusAfter 0x004 State.reset = some 0x00000012 ∧
    statusAfter 0x104 State.reset = some 0x0000001A := by decide
theorem test_kmacInit_length : statusAfter 0x104 (withLengths 0 0 0x20000000 0) = some 0x04001440 := by decide
theorem test_kmacFinal : statusAfter 0x005 State.reset = some 0x05001240 ∧
    statusAfter 0x005 (inKmac true .kmAbsorb) = some 0x00000015 := by decide
theorem test_kmacRestore : statusAfter 0x006 (inKmac true .kmSqueeze) = some 0x00000012 ∧
    statusAfter 0x006 (inKmac false .kmKeyed) = some 0x06001542 ∧ statusAfter 0x006 State.reset = some 0x06001240 := by
  decide
theorem test_encLeft : encAfter 0x007 (withLengths 0 1344 0 0) = some (3, 0x00400502, 0, 0) ∧
    encAfter 0x007 (withLengths 0x1FFFFFFF 0xFFFFFFFF 0 0) = some (9, 0xFFFF1F08, 0xFFFFFFFF, 0x000000FF) := by decide
theorem test_encRight : encAfter 0x008 (withLengths 0 1344 0 0) = some (3, 0x00024005, 0, 0) ∧
    encAfter 0x008 (withLengths 0x1FFFFFFF 0xFFFFFFFF 0 0) = some (9, 0xFFFFFF1F, 0xFFFFFFFF, 0x00000008) := by decide
theorem test_softReset : statusAfter 0x0FF halted = some 0x00000000 ∧ statusAfter 0x0FF (initPending 4) = some 0x00000000 := by
  decide
theorem test_illegal_word : statusAfter 0x009 State.reset = some 0x09001140 ∧
    statusAfter 0x1FF State.reset = some 0xFF001140 ∧ statusAfter 0x009 halted = some 0x03001240 := by decide

/-- Spec: "W DIN, 0" and "R DOUT" from reset (95_test_vectors.md 2.7). -/
theorem test_data_errors :
    seen statusWord (writeReg .din 0 State.reset) = some 0x00002340 ∧
    (readReg .dout State.reset).1 = 0 ∧ statusWord (readReg .dout State.reset).2 = 0x00003240 := by decide

/-- The first byte of a stream segment goes to state byte pos: 0x6162 at positions 0 and 1. -/
theorem test_absorb_bytes :
    (absorb Sponge.reset [0x61, 0x62]).lanes[0] = 0x6261 ∧ (absorb Sponge.reset [0x61, 0x62]).pos = 2 := by decide

/-- 95_test_vectors.md 2.2: the lanes after round 1. -/
theorem test_two_rounds :
    lane (keccakRound (keccakRound (Vector.replicate 25 0#64) 0) 1) 0 0 = 0x0000000000008083 ∧
    lane (keccakRound (keccakRound (Vector.replicate 25 0#64) 0) 1) 2 4 = 0x0000010000000004 := by decide +kernel

/-- 95_test_vectors.md 2.2: lane A[0][0] of f(0). -/
theorem test_keccakF_of_zero :
    lane (keccakF (Vector.replicate 25 0#64)) 0 0 = 0xF1258F7940E1DDE7 := by decide +kernel

/-! ## Witnesses: the hypotheses of each obligation are met -/

theorem witness_IllegalWordsByCondition : decode 0x00000009 = .error .unknownOp := by rfl
theorem witness_DecodeEncodeAgree :
    (Instr.kmacInit .v256).wellFormed = true ∧ decode 0x00000104 = .ok (.kmacInit .v256) := ⟨rfl, rfl⟩

theorem witness_StepPerformsNextAccess :
    let w := withNext (.access (.write 0x10 0xF 7)) State.reset
    let r := withNext (.access (.read 0x3C 0x0)) State.reset
    (w.inputs = [.access (.write 0x10 0xF 7)] ∧ w.rst = false) ∧
    (r.inputs = [.access (.read 0x3C 0x0)] ∧ r.rst = false) ∧ State.reset.inputs = [] :=
  ⟨⟨rfl, rfl⟩, ⟨rfl, rfl⟩, rfl⟩
theorem witness_StepRunsDecodedCommand :
    let s := withNext (.access (.write 0x08 0xF 0x101)) State.reset
    s.inputs = [.access (.write 0x08 0xF 0x101)] ∧ s.rst = false ∧ selectReg s.build.kccBase 0x08 = .cmd ∧
      decode 0x101 = .ok (.csInit .v256) := ⟨rfl, rfl, rfl, rfl⟩

theorem witness_MinlenIsLeast :
    (1 ≤ 1 ∧ (255#64).toNat < 2 ^ (8 * 1)) ∧ (1 ≤ 8 ∧ (0xFFFFFFFFFFFFFFFF#64).toNat < 2 ^ (8 * 8)) := by decide
theorem witness_EncLeftWritesEncoderRegisters : Ready State.reset ∧ Ready (withLengths 0xFFFFFFFF 0xFFFFFFFF 0 0) := by decide
theorem witness_EncRightWritesEncoderRegisters : Ready State.reset ∧ Ready (inKmac true .kmSqueeze) := by decide
theorem witness_TablesByRecurrence : (0 < 24 ∧ 0 < 64) ∧ (23 < 24 ∧ 63 < 64) := by decide
theorem witness_StateBytesReadAndXor :
    (0 < 200 ∧ (0 : Fin 5).val = 0 / 8 % 5 ∧ (0 : Fin 5).val = 0 / 8 / 5) ∧
    (199 < 200 ∧ (4 : Fin 5).val = 199 / 8 % 5 ∧ (4 : Fin 5).val = 199 / 8 / 5) := by decide

/-- A sponge at a position. -/
def spongeAt (p : Nat) : Sponge := { Sponge.reset with pos := p }

theorem witness_PadStdAbsorbsZeros :
    ((spongeAt 0).pos < (spongeAt 0).rate ∧ (spongeAt 0).rate ≤ 200) ∧
    ((spongeAt 167).pos < (spongeAt 167).rate ∧ (spongeAt 167).rate ≤ 200) := by decide
theorem witness_KeypadZeroBlockRule :
    ((spongeAt 0).pos < (spongeAt 0).rate ∧ (spongeAt 0).rate ≤ 200) ∧
    ((spongeAt 167).pos < (spongeAt 167).rate ∧ (spongeAt 167).pos ≠ 0) ∧
    ((spongeAt 0).pos = 0 ∧ (spongeAt 0).rate = rateOf .v128 ∧ (163#64).toNat < 2 ^ 61 ∧
      (List.replicate 163 0x00#8).length = (163#64).toNat) := by
  refine ⟨by decide, by decide, by decide, by decide, by decide, ?_⟩
  rw [List.length_replicate]; decide
theorem witness_FinalPadClosesTheBlock :
    ((spongeAt 0).pos < (spongeAt 0).rate ∧ (spongeAt 0).rate ≤ 200) ∧
    ((spongeAt 167).pos < (spongeAt 167).rate ∧ (spongeAt 167).pos = (spongeAt 167).rate - 1) := by decide
theorem witness_OutputSequenceByBlocks : 0 < Sponge.reset.rate ∧ Sponge.reset.spos = 0 := by decide

theorem witness_NopChangesNothing : Ready State.reset := by decide
theorem witness_HardwareReset :
    let a := { withNext .releaseRst State.reset with rst := true }
    let b := { withNext (.access (.read 0 0)) State.reset with rst := true }
    let c : State := { State.reset with inputs := [.assertRstDuring (.read 0 0), .releaseRst] }
    let d : State := { inKmac true .kmKeyed with inputs := [.assertRst, .releaseRst] }
    (a.inputs = [.releaseRst] ∧ a.rst = true) ∧ (b.inputs = [.access (.read 0 0)] ∧ b.rst = true) ∧
    (c.inputs = [.assertRstDuring (.read 0 0), .releaseRst] ∧ c.rst = false) ∧ d.inputs = [.assertRst, .releaseRst] :=
  ⟨⟨rfl, rfl⟩, ⟨rfl, rfl⟩, ⟨rfl, rfl⟩, rfl⟩
theorem witness_CsInitStartsShake : Ready State.reset ∧ State.reset.lena = 0#64 ∧ State.reset.lenb = 0#64 := by decide
theorem witness_CsInitIssuesItsStream :
    (let s := withLengths 0 0 0 1
     Ready s ∧ s.lena.toNat < 2 ^ 61 ∧ s.lenb.toNat < 2 ^ 61 ∧ ¬ (s.lena = 0#64 ∧ s.lenb = 0#64)) ∧
    (let s := withLengths 0x1FFFFFFF 0xFFFFFFFF 0 0
     Ready s ∧ s.lena.toNat < 2 ^ 61 ∧ s.lenb.toNat < 2 ^ 61 ∧ ¬ (s.lena = 0#64 ∧ s.lenb = 0#64)) := by decide
theorem witness_AbsorbIssuesItsStream :
    (Ready (inShake .csAbsorb) ∧ (inShake .csAbsorb).phase = .csAbsorb) ∧
    (Ready (inKmac true .kmKeyed) ∧ (inKmac true .kmKeyed).phase = .kmKeyed) ∧
    (Ready (inKmac true .kmAbsorb) ∧ (inKmac true .kmAbsorb).phase = .kmAbsorb) := by decide
theorem witness_CsFinalOpensTheSqueeze : Ready (inShake .csAbsorb) ∧ (inShake .csAbsorb).phase = .csAbsorb := by decide
theorem witness_KmacInitIssuesItsStream :
    (let s := withLengths 0 32 0x1FFFFFFF 0xFFFFFFFF
     Ready s ∧ s.lena.toNat < 2 ^ 61 ∧ s.lenb.toNat < 2 ^ 61 ∧ s.lenb ≠ 0#64) ∧
    (let s := withLengths 0x1FFFFFFF 0xFFFFFFFF 0 0
     Ready s ∧ s.lena.toNat < 2 ^ 61 ∧ s.lenb.toNat < 2 ^ 61 ∧ s.lenb = 0#64 ∧ s.lena ≠ 0#64) ∧
    (Ready State.reset ∧ State.reset.lenb = 0#64 ∧ State.reset.lena = 0#64) := by decide
theorem witness_KmacFinalOpensTheSqueeze :
    (Ready (inKmac true .kmKeyed) ∧ (inKmac true .kmKeyed).phase = .kmKeyed) ∧
    (Ready (inKmac false .kmAbsorb) ∧ (inKmac false .kmAbsorb).phase = .kmAbsorb) := by decide
theorem witness_KmacRestoreReturnsToTheSnapshot :
    (let s := inKmac true .kmKeyed; Ready s ∧ s.phase = .kmKeyed ∧ s.snapValid = true) ∧
    (let s := inKmac true .kmAbsorb; Ready s ∧ s.phase = .kmAbsorb ∧ s.snapValid = true) ∧
    (let s := inKmac true .kmSqueeze; Ready s ∧ s.phase = .kmSqueeze ∧ s.snapValid = true) := by decide

theorem inShake_inv : (inShake .csAbsorb).Inv := by constructor <;> decide
theorem keyed_inv : (inKmac true .kmKeyed).Inv := by constructor <;> decide
theorem squeeze_inv : (inKmac false .kmSqueeze).Inv := by constructor <;> decide
theorem initPending_inv : (initPending 3).Inv ∧ (initPending 4).Inv ∧ (initPending 5).Inv := by
  refine ⟨?_, ?_, ?_⟩ <;> constructor <;> decide
theorem absorbPending_inv : absorbPending.Inv := by constructor <;> decide
theorem halted_inv : halted.Inv := by constructor <;> decide

theorem witness_RestoreInKeyedChangesNothing :
    (inKmac true .kmKeyed).Inv ∧ Ready (inKmac true .kmKeyed) ∧ (inKmac true .kmKeyed).phase = .kmKeyed ∧
      (inKmac true .kmKeyed).snapValid = true := ⟨keyed_inv, by decide, rfl, rfl⟩

/-- One word and state for each branch of the CMD checks, in their order, and for those of DIN and DOUT. -/
theorem witness_CheckOrder :
    (0x000000FF#32 = 0x000000FF#32) ∧ (halted.err.err = true) ∧
    (State.reset.err.err = false ∧ CmdWord.wellFormed 0x00000009 = false) ∧
    (CmdWord.wellFormed 0x00000007 = true ∧ (initPending 4).err.err = false ∧ (initPending 4).pend.op ≠ .idle) ∧
    (State.reset.pend.op = .idle ∧ State.reset.phase.code ∉ allowedPhaseCodes 0x03) ∧
    ((inKmac false .kmKeyed).phase.code ∈ allowedPhaseCodes 0x06 ∧ (inKmac false .kmKeyed).snapValid = false) ∧
    (2 ^ 61 ≤ (withLengths 0x20000000 0 0 0).lena.toNat) ∧
    ((withLengths 0x1FFFFFFF 0xFFFFFFFF 0 0).lena.toNat < 2 ^ 61) ∧
    ((inShake .csSqueeze).err.err = false ∧ (inShake .csSqueeze).phase = .csSqueeze) := by decide
theorem witness_ErrorsArePrecise :
    let s := State.reset.withFetchWord 32 0x9
    s.err.err = false ∧ ∃ t, step s = .next t ∧ t.err.err = true := ⟨rfl, _, rfl, rfl⟩
theorem witness_HaltedCoreIgnoresAccesses : halted.err.err = true ∧ (0x00000000#32) ≠ 0x000000FF#32 := by decide
theorem witness_LatchClearedOnlyByReset :
    halted.err.err = true ∧ (∃ t, step (halted.withFetchWord 32 0x0) = .next t ∧ t.err = halted.err) ∧
      (∃ t, step (halted.withFetchWord 32 0xFF) = .next t ∧ t.err = ErrLatch.reset) :=
  ⟨rfl, ⟨_, rfl, rfl⟩, ⟨_, rfl, rfl⟩⟩
/-- KMAC_RESTORE without a snapshot in IDLE, KMAC_RESTORE with one, ABSORB of any length, an initialization. -/
theorem witness_PhaseTransitionTable :
    (Ready State.reset ∧ phaseTable .kmacRestore State.reset = none ∧ State.reset.snapValid = false) ∧
    (Ready (inKmac true .kmSqueeze) ∧ phaseTable .kmacRestore (inKmac true .kmSqueeze) ≠ none ∧
      (inKmac true .kmSqueeze).snapValid = true) ∧
    (let s := { inKmac true .kmKeyed with lenaHi := 0xFFFFFFFF, lenaLo := 0xFFFFFFFF }
     Ready s ∧ phaseTable .absorb s = some .kmAbsorb ∧ 2 ^ 61 ≤ s.lena.toNat) ∧
    (let s := withLengths 0x1FFFFFFF 0xFFFFFFFF 0 0
     Ready s ∧ s.lena.toNat < 2 ^ 61 ∧ s.lenb.toNat < 2 ^ 61) := by decide
theorem witness_DinCountsAndCompletes :
    ((initPending 3).Inv ∧ (initPending 3).err.err = false ∧ (initPending 3).pend.op ≠ .idle) ∧
    ((initPending 4).Inv ∧ (initPending 4).bytesDue = 4) ∧
    ((initPending 5).Inv ∧ (initPending 5).bytesDue = 5 ∧
      4 < (if (initPending 5).pend.seg = .one then (initPending 5).pend.rem1 else (initPending 5).pend.rem2).toNat) ∧
    (absorbPending.Inv ∧ absorbPending.err.err = false ∧ absorbPending.pend.op = .absorb ∧ absorbPending.bytesDue = 3) ∧
    (∀ k, k < min 4 (initPending 3).bytesDue → wordByte 0xFF636261 k = wordByte 0x00636261 k) :=
  ⟨⟨initPending_inv.1, by decide, by decide⟩, ⟨initPending_inv.2.1, by decide⟩,
    ⟨initPending_inv.2.2, by decide, by decide⟩, ⟨absorbPending_inv, rfl, rfl, by decide⟩, by decide⟩
theorem witness_MessageStreamDeliversAndSplits :
    (Ready (inShake .csAbsorb) ∧ (inShake .csAbsorb).rst = false ∧ ([0x00#8] : List Byte).length < 2 ^ 64 ∧
      (inShake .csAbsorb).phase = .csAbsorb) ∧
    (Ready (inKmac true .kmKeyed) ∧ (inKmac true .kmKeyed).rst = false ∧ (inKmac true .kmKeyed).phase = .kmKeyed) := by
  decide
theorem witness_CsInitAbsorbsThePrefix :
    Ready State.reset ∧ State.reset.rst = false ∧ ([] : List Byte).length < 2 ^ 61 ∧
      ([0x78#8] : List Byte).length < 2 ^ 61 ∧ 0 < ([] : List Byte).length + ([0x78#8] : List Byte).length := by decide
theorem witness_KmacInitAbsorbsTheKeyBlock :
    Ready State.reset ∧ State.reset.rst = false ∧ ([0x40#8] : List Byte).length < 2 ^ 61 ∧
      ([] : List Byte).length < 2 ^ 61 ∧ State.reset.build.resettable = true := by decide
theorem witness_CshakeAccessesReturnCshake :
    Ready State.reset ∧ State.reset.rst = false ∧ ([0x4B#8] : List Byte).length < 2 ^ 61 ∧
      ([0x00#8] : List Byte).length < 2 ^ 64 := by decide
theorem witness_KmacxofAccessesReturnKmacxof :
    Ready State.reset ∧ State.reset.rst = false ∧ ([0x40#8] : List Byte).length < 2 ^ 61 ∧
      ([0x00#8] : List Byte).length < 2 ^ 64 ∧
      (3 + minlen (8 * lengthOperand [0x40#8]) + ([0x40#8] : List Byte).length) % rateOf .v128 ≠ 0 := by decide
theorem witness_KeyedResetLaw :
    Ready State.reset ∧ State.reset.rst = false ∧ State.reset.build.resettable = true ∧
      ([0x40#8] : List Byte).length < 2 ^ 61 ∧ ([0x00#8] : List Byte).length < 2 ^ 64 := by decide

theorem witness_IgnoredWrites :
    Reg.rem ∈ [Reg.id, .hwcfg, .status, .dout, .encLen, .encW0, .encW1, .encW2, .rem] := by decide
theorem witness_DoutReads :
    ((inShake .csSqueeze).err.err = false ∧ (inShake .csSqueeze).phase = .csSqueeze) ∧
    ((inKmac true .kmSqueeze).err.err = false ∧ (inKmac true .kmSqueeze).phase = .kmSqueeze) ∧
    (State.reset.phase ≠ .csSqueeze ∧ State.reset.phase ≠ .kmSqueeze) := by decide
theorem witness_AddressDecode :
    ((0x10#64) - State.reset.build.kccBase).toNat % 64 / 4 = ((0x53#64) - State.reset.build.kccBase).toNat % 64 / 4 := by
  decide
theorem witness_IrqAfterEveryAccess :
    let s := withNext (.access (.read 0 0)) halted
    s.inputs = [.access (.read 0 0)] ∧ ∃ t, step s = .next t := ⟨rfl, _, rfl⟩
theorem witness_BuildParametersNeverChange : ∃ t, step (State.reset.withFetchWord 32 0xFF) = .next t := ⟨_, rfl⟩
theorem witness_StepKeepsInvariant :
    (withNext (.access (.write 0x20 0xF 0x00636261)) (initPending 3)).Inv ∧
    ∃ t, step (withNext (.access (.write 0x20 0xF 0x00636261)) (initPending 3)) = .next t :=
  ⟨by constructor <;> decide, _, rfl⟩

/-- Two cores with different keys absorbed. -/
theorem witness_NoReadPathToSecrets :
    let s1 := withNext (.access (.read 0x0C 0xF)) (inKmac true .kmKeyed)
    let s2 := { s1 with sponge := { s1.sponge with lanes := Vector.replicate 25 1#64 } }
    s1 ≠ s2 ∧ s1.withoutSecrets = s2.withoutSecrets ∧ ∃ t, step s1 = .next t := ⟨by decide, rfl, _, rfl⟩
theorem witness_SnapshotWrittenOnlyByKmacInit :
    (∃ t, step (State.reset.withFetchWord 32 0x4) = .next t ∧ t.snapValid ≠ State.reset.snapValid) ∧
    (∃ t, step ((inKmac true .kmKeyed).withFetchWord 32 0x1) = .next t ∧
      t.snapValid ≠ (inKmac true .kmKeyed).snapValid) := ⟨⟨_, rfl, by decide⟩, ⟨_, rfl, by decide⟩⟩
theorem witness_NonResettableSqueezeIsTerminal :
    (inKmac false .kmSqueeze).Inv ∧ (inKmac false .kmSqueeze).build.resettable = false ∧
      (inKmac false .kmSqueeze).phase = .kmSqueeze ∧ Ready (inKmac false .kmSqueeze) ∧
      ∃ t, step ((inKmac false .kmSqueeze).withFetchWord 32 0x1) = .next t ∧ t.phase ≠ .kmSqueeze :=
  ⟨squeeze_inv, rfl, rfl, by decide, _, rfl, by decide⟩

end Sys2Proof.Tests
end

section
/-! PROOF. What one step answers, event by event (20_memory.md R209; 70_reset_and_hazards.md R800). -/

namespace Sys2Proof.Proofs
open Sys2Proof.Machine Sys2Proof.Laws

theorem step_of_no_inputs {s : State} (hi : s.inputs = []) : step s = .next s := by
  simp [step, hi]

theorem step_write {s u : State} {addr : Address} {m : BitVec 4} {v : Word} {rest : List HostEvent}
    (hi : s.inputs = .access (.write addr m v) :: rest) (hr : s.rst = false)
    (hw : writeReg (selectReg s.build.kccBase addr) v (s.withInputs rest) = .next u) :
    step s = .next (observe (.wrote (irq u)) u) := by
  simp [step, hi, handleEvent, hr, performAccess, hw]

theorem step_read {s : State} {addr : Address} {m : BitVec 4} {rest : List HostEvent}
    (hi : s.inputs = .access (.read addr m) :: rest) (hr : s.rst = false) :
    step s = .next (observe (.returned (readReg (selectReg s.build.kccBase addr) (s.withInputs rest)).1
        (irq (readReg (selectReg s.build.kccBase addr) (s.withInputs rest)).2))
      (readReg (selectReg s.build.kccBase addr) (s.withInputs rest)).2) := by
  simp [step, hi, handleEvent, hr, performAccess]

theorem step_access_while_rst {s : State} {a : BusAccess} {rest : List HostEvent}
    (hi : s.inputs = .access a :: rest) (hr : s.rst = true) : step s = .fault .accessWhileRst := by
  simp [step, hi, handleEvent, hr]

theorem step_assertRst {s : State} {rest : List HostEvent} (hi : s.inputs = .assertRst :: rest) :
    step s = .next (assertReset (s.withInputs rest)) := by
  simp [step, hi, handleEvent]

theorem step_assertRstDuring {s : State} {a : BusAccess} {rest : List HostEvent}
    (hi : s.inputs = .assertRstDuring a :: rest) (hr : s.rst = false) :
    step s = .next (assertReset (abandonAccess a (s.withInputs rest))) := by
  simp [step, hi, handleEvent, hr]

theorem step_releaseRst {s : State} {rest : List HostEvent} (hi : s.inputs = .releaseRst :: rest) :
    step s = .next (releaseReset (s.withInputs rest)) := by
  simp [step, hi, handleEvent]

end Sys2Proof.Proofs
end

section
/-! PROOF. The decoder inverts the encoder: a word that decodes is the encoding of its instruction (30_encoding.md R301,
R303). -/

namespace Sys2Proof.Proofs
open Sys2Proof Sys2Proof.Machine Sys2Proof.Laws

/-- A word is its three fields (30_encoding.md R301). -/
theorem fields_append (w : Word) :
    CmdWord.rsvField w ++ BitVec.ofBool (CmdWord.vField w) ++ CmdWord.opField w = w := by
  apply BitVec.eq_of_getLsbD_eq
  intro k hk
  simp only [CmdWord.rsvField, CmdWord.vField, CmdWord.opField, BitVec.getLsbD_append, BitVec.getLsbD_extractLsb',
    BitVec.getLsbD_ofBool]
  grind

theorem withoutVariant_ok {v : Bool} {i j : Instr} (h : withoutVariant v i = .ok j) : v = false ∧ i = j := by
  cases v
  · exact ⟨rfl, by simpa [withoutVariant] using h⟩
  · simp [withoutVariant] at h

theorem bit_variantOfBit (v : Bool) : (variantOfBit v).bit = v := by cases v <;> rfl

/-- The fields of a word that decodes. -/
theorem fields_of_decode {w : Word} {i : Instr} (h : decode w = .ok i) :
    CmdWord.rsvField w = 0 ∧ CmdWord.vField w = i.vBit ∧ CmdWord.opField w = i.opcode := by
  unfold decode at h
  split at h
  · cases h
  next hr =>
    refine ⟨not_not.1 hr, ?_⟩
    dsimp only at h
    split at h
    case h_1 ho | h_3 ho | h_4 ho | h_6 ho | h_7 ho | h_8 ho | h_9 ho | h_10 ho =>
      obtain ⟨hv, rfl⟩ := withoutVariant_ok h
      exact ⟨hv, BitVec.eq_of_toNat_eq ho⟩
    case h_2 ho | h_5 ho =>
      obtain rfl := Except.ok.inj h
      exact ⟨(bit_variantOfBit _).symm, BitVec.eq_of_toNat_eq ho⟩
    case h_11 => cases h

theorem encode_of_decode {w : Word} {i : Instr} (h : decode w = .ok i) : encode i = w := by
  obtain ⟨hr, hv, ho⟩ := fields_of_decode h
  rw [encode, ← hr, ← hv, ← ho]
  exact fields_append w

end Sys2Proof.Proofs
end

section
/-! PROOF. The step, the resets and the registers (10_state.md R101 to R104, R112, R130; 20_memory.md R202, R203;
70_reset_and_hazards.md R800, R803). -/

namespace Sys2Proof.Proofs
open Sys2Proof Sys2Proof.Machine Sys2Proof.Laws

/-! Steps -/

/-- Settles O5: the observed level of irq is that of the state the access reached. -/
theorem stepPerformsNextAccess : Obligations.StepPerformsNextAccess := by
  refine ⟨fun s addr m v rest hi hr => ?_, fun s addr m rest hi hr => step_read hi hr, fun s hi => step_of_no_inputs hi⟩
  obtain ⟨u, hu⟩ := writeReg_next (selectReg s.build.kccBase addr) v (s.withInputs rest)
  exact ⟨u, hu, step_write hi hr hu⟩

/-- A write to CMD of a word that decodes is exec of its instruction (10_state.md R104). -/
theorem writeReg_cmd_of_decode {w : Word} {i : Instr} (h : decode w = .ok i) (s : State) :
    writeReg .cmd w s = exec i s := by
  simp [writeReg, writeCmd, h]

/-- Settles O6: the write acts on CMD, where it is exec of the decoded instruction. -/
theorem stepRunsDecodedCommand : Obligations.StepRunsDecodedCommand := by
  intro s addr m w rest i hi hr hsel hd
  obtain ⟨t, ht⟩ := exec_next i (s.withInputs rest)
  exact ⟨t, ht, step_write hi hr (by rw [hsel, writeReg_cmd_of_decode hd, ht])⟩

/-! Resets -/

theorem clearBlock_holdsResetValues (s : State) : HoldsResetValues (clearBlock s) :=
  holdsResetValues_of_fields rfl rfl rfl rfl rfl rfl rfl rfl rfl rfl rfl rfl rfl rfl rfl

/-- Settles O22: a word that decodes is the encoding of its instruction, and SOFT_RESET clears the block. -/
theorem softResetInEveryState : Obligations.SoftResetInEveryState := by
  refine ⟨fun w => ⟨fun h => (encode_of_decode h).symm, ?_⟩, fun s => ?_⟩
  · rintro rfl; rfl
  · exact ⟨clearBlock s, exec_softReset s, clearBlock_holdsResetValues s, rfl, rfl, rfl, rfl, rfl⟩

theorem releaseReset_asserted {s : State} (h : s.rst = true) :
    releaseReset s = { clearBlock s with rst := false } := by
  simp [releaseReset, h]

/-- The release of an asserted rst gives the reset values (70_reset_and_hazards.md R800). -/
theorem step_release_asserted {s : State} {rest : List HostEvent} (hi : s.inputs = .releaseRst :: rest)
    (hr : s.rst = true) :
    ∃ t, step s = .next t ∧ HoldsResetValues t ∧ t.rst = false ∧ t.build = s.build ∧ t.inputs = rest ∧
      t.observed = s.observed := by
  refine ⟨_, step_releaseRst hi, ?_⟩
  rw [releaseReset_asserted (by simpa using hr)]
  have hc := clearBlock_holdsResetValues (s.withInputs rest)
  exact ⟨{ hc with }, rfl, rfl, rfl, rfl⟩

/-- Settles O23: an assertion, and the release after it, with and without an access cut off. -/
theorem hardwareReset : Obligations.HardwareReset := by
  refine ⟨fun s rest => step_release_asserted, fun s rest hi => ?_, fun s rest hi => ?_,
    fun s a rest => step_access_while_rst, fun s a rest hi hr => ?_⟩
  · exact ⟨_, step_assertRst hi, rfl, rfl, rfl, rfl⟩
  · obtain ⟨u, hu⟩ := step_release_asserted (s := assertReset (s.withInputs (.releaseRst :: rest))) rfl rfl
    exact ⟨_, u, step_assertRst hi, rfl, hu⟩
  · obtain ⟨u, hu, hv, hrst, hb, hin, _⟩ := step_release_asserted
      (s := assertReset (abandonAccess a (s.withInputs (.releaseRst :: rest)))) (by cases a <;> rfl) rfl
    exact ⟨_, u, step_assertRstDuring hi hr, rfl, hu, hv, hrst, hb.trans (by cases a <;> rfl), hin⟩

/-! Registers -/

/-- Settles O45: the sum of the bytes due, modulo 2^64, has the same low 32 bits as the exact sum. -/
theorem remReadsBytesDue : Obligations.RemReadsBytesDue := by
  refine fun s => ⟨rfl, ?_, fun v => rfl⟩
  show (remWord s).toNat = _
  unfold remWord
  by_cases hp : s.pend.op = .idle
  · simp [pending_eq_false.2 hp, hp]
  · rw [if_pos (pending_eq_true.2 hp), if_neg hp, BitVec.toNat_setWidth, BitVec.toNat_add, State.bytesDue]
    omega

/-- Settles O51: HWCFG has two bits, one for each parameter. -/
theorem identityRegisters : Obligations.IdentityRegisters := by
  refine ⟨fun s => ⟨rfl, rfl, ?_⟩, rfl, fun v s => ⟨rfl, rfl⟩⟩
  show (hwcfgWord s.build).getLsbD 0 = _ ∧ (hwcfgWord s.build).getLsbD 1 = _ ∧ (hwcfgWord s.build).toNat / 4 = 0
  unfold hwcfgWord
  cases s.build.resettable <;> cases s.build.keypadOnBoundary <;> decide

/-- The word an address selects is bits [5:2] of its offset (20_memory.md R202). -/
theorem toNat_wordNumber (offset : Address) : (offset.extractLsb' 2 4).toNat = offset.toNat % 64 / 4 := by
  rw [BitVec.extractLsb'_toNat, Nat.shiftRight_eq_div_pow]
  omega

theorem selectReg_congr {base a1 a2 : Address}
    (h : (a1 - base).toNat % 64 / 4 = (a2 - base).toNat % 64 / 4) : selectReg base a1 = selectReg base a2 := by
  have hw : (a1 - base).extractLsb' 2 4 = (a2 - base).extractLsb' 2 4 := by
    apply BitVec.eq_of_toNat_eq
    rw [toNat_wordNumber, toNat_wordNumber, h]
  rw [selectReg, selectReg, hw]

/-- The register at an offset does not depend on the base. -/
theorem selectReg_add (base offset : Address) : selectReg base (base + offset) = selectReg 0#64 offset := by
  rw [selectReg, selectReg, BitVec.add_comm, BitVec.add_sub_cancel, BitVec.sub_zero]

/-- Settles O52: accesses that select the same register are the same access. -/
theorem addressDecode : Obligations.AddressDecode := by
  refine ⟨fun base p hp => ?_, fun a1 a2 m1 m2 v s h => ?_⟩
  · rw [selectReg_add]
    revert p
    decide
  · simp only [performAccess, selectReg_congr h, and_self]

end Sys2Proof.Proofs
end

section
/-! PROOF. The invariant State.Inv: what keeps it, operation by operation, and that every step does (10_state.md
R121). -/

namespace Sys2Proof.Proofs.Invariant
open Sys2Proof.Machine Sys2Proof.Laws

/-! The sponge: positions below the rate, and the rate of the variant. -/

/-- What 10_state.md R121 says of S alone. -/
structure SpongeInv (S : Sponge) : Prop where
  pos_lt : S.pos < S.rate
  rate_of_var : S.rate = rateOf S.var
  spos_le : S.spos ≤ S.rate

theorem sponge_inv {s : State} (h : s.Inv) : SpongeInv s.sponge := ⟨h.pos_lt, h.rate_of_var, h.spos_le⟩

theorem SpongeInv.rate_pos {S : Sponge} (h : SpongeInv S) : 0 < S.rate := Nat.zero_lt_of_lt h.pos_lt

theorem spongeInv_spongeClear (v : Variant) (d : Byte) : SpongeInv { spongeClear v with ds := d } :=
  ⟨rateOf_pos v, rfl, Nat.zero_le _⟩

theorem SpongeInv.absorb {S : Sponge} (h : SpongeInv S) (B : List Byte) : SpongeInv (absorb S B) :=
  ⟨absorb_pos_lt B h.pos_lt, by simpa using h.rate_of_var, by simpa using h.spos_le⟩

theorem SpongeInv.absorbByte {S : Sponge} (h : SpongeInv S) (v : Byte) : SpongeInv (absorbByte S v) :=
  h.absorb [v]

theorem SpongeInv.padStd {S : Sponge} (h : SpongeInv S) : SpongeInv (padStd S) :=
  ⟨by simpa using h.rate_pos, by simpa using h.rate_of_var, by simpa using h.spos_le⟩

theorem SpongeInv.keypad {S : Sponge} (h : SpongeInv S) (m : KeypadMode) : SpongeInv (keypad m S) :=
  ⟨by simpa [keypad_pos] using h.rate_pos, by simpa using h.rate_of_var, by simpa using h.spos_le⟩

theorem SpongeInv.finalPad {S : Sponge} (h : SpongeInv S) : SpongeInv (finalPad S) :=
  ⟨h.rate_pos, h.rate_of_var, Nat.zero_le _⟩

theorem SpongeInv.squeezeBytes {S : Sponge} (h : SpongeInv S) (n : Nat) : SpongeInv (squeezeBytes n S).2 := by
  obtain ⟨hr, hv, _, hp⟩ := squeezeBytes_keeps n S
  exact ⟨by rw [hp, hr]; exact h.pos_lt, by rw [hr, hv]; exact h.rate_of_var,
    by rw [hr]; exact squeezeBytes_spos_le n h.spos_le h.rate_pos⟩

/-! Which updates of a state keep the invariant. -/

/-- The invariant speaks of the build parameters, S, SNAP, P, PHASE, the latch and ENC_LEN only. -/
theorem inv_of_fields_eq {s t : State} (h : s.Inv) (hb : t.build = s.build) (hS : t.sponge = s.sponge)
    (hn : t.snap = s.snap) (hv : t.snapValid = s.snapValid) (hp : t.pend = s.pend) (hph : t.phase = s.phase)
    (he : t.err = s.err) (hl : t.encLen = s.encLen) : t.Inv := by
  cases s; cases t
  dsimp only at *
  subst hb hS hn hv hp hph he hl
  exact { h with }

theorem inv_observe {s : State} (h : s.Inv) (o : Observation) : (observe o s).Inv := { h with }

theorem inv_withInputs {s : State} (h : s.Inv) (es : List HostEvent) : (s.withInputs es).Inv := { h with }

/-- The phases of a KMAC computation, in which a snapshot is kept. -/
abbrev KmacPhase (p : Phase) : Prop := p = .kmKeyed ∨ p = .kmAbsorb ∨ p = .kmSqueeze

theorem snapValid_eq_false {s : State} (h : s.Inv) (hp : ¬ KmacPhase s.phase) : s.snapValid = false := by
  rw [← Bool.not_eq_true, h.snap_valid]
  exact fun hk => hp hk.2

/-- Reset values, whatever the build parameters. -/
theorem inv_clearBlock (s : State) : (clearBlock s).Inv := by
  constructor <;> simp [State.reset, Sponge.reset, Pending.reset, ErrLatch.reset, rateOf]

/-- With no stream pending, S and PHASE may move as long as SNAP stays that of the sponge's variant and of the phase. -/
theorem inv_move {s : State} {S : Sponge} {p : Phase} (h : s.Inv) (hop : s.pend.op = .idle) (hS : SpongeInv S)
    (hv : S.var = s.sponge.var) (hd : p = .csAbsorb ∨ p = .kmKeyed ∨ p = .kmAbsorb → S.ds ≠ 0x00#8)
    (hk : KmacPhase p ↔ KmacPhase s.phase)
    (hkey : p = .kmKeyed → S.pos = 0 ∧ S.spos = 0 ∧ S.ds = 0x04#8 ∧ (s.snapValid = true → s.snap = snapshotOf S)) :
    { s with sponge := S, phase := p }.Inv :=
  { h with
    pos_lt := hS.pos_lt
    rate_of_var := hS.rate_of_var
    spos_le := hS.spos_le
    ds_set := hd
    init_pending := by simp [hop]
    absorb_pending := by simp [hop]
    snap_valid := by rw [h.snap_valid]; exact and_congr_right fun _ => hk.symm
    snap_fields := fun hsv => by
      obtain ⟨fvar, frate, fpos, fds⟩ := h.snap_fields hsv
      exact ⟨fvar.trans hv.symm, by rw [frate, h.rate_of_var, hS.rate_of_var, hv], fpos, fds⟩
    keyed := hkey }

/-- An initialization starts: SNAP is cleared, S is fresh (42_sponge_cshake.md R510, 43_kmac.md R550). -/
theorem inv_restart {s : State} {S : Sponge} {p : Phase} (h : s.Inv) (hop : s.pend.op = .idle) (hS : SpongeInv S)
    (hp : p = .idle ∨ p = .csAbsorb ∧ S.ds ≠ 0x00#8) :
    { snapClear s with sponge := S, phase := p }.Inv :=
  { h with
    pos_lt := hS.pos_lt
    rate_of_var := hS.rate_of_var
    spos_le := hS.spos_le
    ds_set := by rcases hp with rfl | ⟨rfl, hd⟩ <;> simp [*]
    init_pending := by simp [hop]
    absorb_pending := by simp [hop]
    snap_valid := by rcases hp with rfl | ⟨rfl, _⟩ <;> simp
    snap_fields := by simp
    snap_clear := fun _ => rfl
    keyed := by rcases hp with rfl | ⟨rfl, _⟩ <;> simp }

/-- CS_INIT completes: its last block is padded and absorbed (42_sponge_cshake.md R513). -/
theorem inv_csInitEnd2 {s : State} (h : s.Inv) (hop : s.pend.op = .idle) (hph : s.phase = .idle)
    (hds : s.sponge.ds = 0x04#8) : (csInitEnd2 s).Inv :=
  inv_move (s := s) (S := padStd s.sponge) h hop (sponge_inv h).padStd (by simp) (by simp [hds])
    (by simp [hph, KmacPhase]) (by simp)

/-- KMAC_INIT completes: S at a block boundary is the keyed sponge and, in a resettable core, the snapshot
(43_kmac.md R556). -/
theorem inv_kmacInitEnd2 {s : State} (h : s.Inv) (hop : s.pend.op = .idle) (hph : s.phase = .idle)
    (hds : s.sponge.ds = 0x04#8) (hspos : s.sponge.spos = 0) : (kmacInitEnd2 s).Inv := by
  have hS : SpongeInv (keypad s.build.keypadOnBoundary s.sponge) := (sponge_inv h).keypad _
  have hv : s.snapValid = false := snapValid_eq_false h (by simp [hph])
  have hkey : (keypad s.build.keypadOnBoundary s.sponge).pos = 0 ∧
      (keypad s.build.keypadOnBoundary s.sponge).spos = 0 ∧
      (keypad s.build.keypadOnBoundary s.sponge).ds = 0x04#8 := by simp [keypad_pos, hds, hspos]
  obtain ⟨hpos, hspos', hds'⟩ := hkey
  unfold kmacInitEnd2 takeSnapshot
  split
  next hr =>
    exact { h with
      pos_lt := hS.pos_lt
      rate_of_var := hS.rate_of_var
      spos_le := hS.spos_le
      ds_set := by simp [hds]
      init_pending := by simp [hop]
      absorb_pending := by simp [hop]
      snap_valid := by simpa using hr
      snap_fields := fun _ => ⟨rfl, rfl, hpos, hds'⟩
      snap_clear := nofun
      keyed := fun _ => ⟨hpos, hspos', hds', fun _ => rfl⟩ }
  next hr =>
    exact { h with
      pos_lt := hS.pos_lt
      rate_of_var := hS.rate_of_var
      spos_le := hS.spos_le
      ds_set := by simp [hds]
      init_pending := by simp [hop]
      absorb_pending := by simp [hop]
      snap_valid := by simpa [hv] using hr
      snap_fields := by simp [hv]
      keyed := fun _ => ⟨hpos, hspos', hds', by simp [hv]⟩ }

/-! The error latch (60_exceptions.md R701). -/

/-- A cause, source and operand that occur together, in a core that is resettable or not. -/
def LegalLatch (resettable : Bool) (e : ErrLatch) : Prop :=
  (e.cause = .illegalCmd ∧ e.src = .cmdWrite)
  ∨ (e.cause = .badPhase ∧ e.src = .cmdWrite)
  ∨ (e.cause = .badPhase ∧ e.src = .doutRead ∧ e.op = 0x00#8)
  ∨ (e.cause = .protocol ∧ e.src = .cmdWrite)
  ∨ (e.cause = .protocol ∧ e.src = .dinWrite ∧ e.op = 0x00#8)
  ∨ (e.cause = .length ∧ e.src = .cmdWrite ∧ (e.op = 0x01#8 ∨ e.op = 0x04#8))
  ∨ (e.cause = .noSnapshot ∧ e.src = .cmdWrite ∧ e.op = 0x06#8 ∧ resettable = false)

theorem inv_raiseError {s : State} (h : s.Inv) {c : ErrCause} {r : ErrSrc} {o : Byte}
    (hl : LegalLatch s.build.resettable { err := true, cause := c, src := r, op := o }) :
    (raiseError c r o s).Inv :=
  { h with
    latch_clear := nofun
    latch_set := fun _ => hl }

theorem snapshotMissing_eq_true {i : Instr} {s : State} (h : snapshotMissing i s = true) :
    i = .kmacRestore ∧ s.snapValid = false := by
  cases i <;> simp_all [snapshotMissing]

theorem lengthError_eq_true {i : Instr} {s : State} (h : lengthError i s = true) :
    ∃ v, i = .csInit v ∨ i = .kmacInit v := by
  cases i <;> simp_all [lengthError]

/-- Which check a command fails, and on which commands the last two fail. -/
theorem failedCheck_some {i : Instr} {s : State} {c : ErrCause} (hf : failedCheck i s = some c) :
    c = .protocol ∨ c = .badPhase
    ∨ (c = .noSnapshot ∧ i = .kmacRestore ∧ KmacPhase s.phase ∧ s.snapValid = false)
    ∨ (c = .length ∧ ∃ v, i = .csInit v ∨ i = .kmacInit v) := by
  unfold failedCheck at hf
  split at hf
  next => exact .inl (Option.some.inj hf).symm
  split at hf
  next => exact .inr (.inl (Option.some.inj hf).symm)
  next hp =>
  split at hf
  next hm =>
    obtain ⟨rfl, hv⟩ := snapshotMissing_eq_true hm
    have ha : phaseAllowed .kmacRestore s.phase = true := by simpa using hp
    have hk : KmacPhase s.phase := by simpa [phaseAllowed, or_assoc] using ha
    exact .inr (.inr (.inl ⟨(Option.some.inj hf).symm, rfl, hk, hv⟩))
  split at hf
  next hl => exact .inr (.inr (.inr ⟨(Option.some.inj hf).symm, lengthError_eq_true hl⟩))
  cases hf

/-- A failing check latches a legal cause: KMAC_RESTORE finds no snapshot in a KMAC phase only if the core keeps
none. -/
theorem legalLatch_of_failedCheck {i : Instr} {s : State} {c : ErrCause} (h : s.Inv) (hf : failedCheck i s = some c) :
    LegalLatch s.build.resettable { err := true, cause := c, src := .cmdWrite, op := i.opcode } := by
  obtain rfl | rfl | ⟨rfl, rfl, hk, hv⟩ | ⟨rfl, v, rfl | rfl⟩ := failedCheck_some hf
  · simp [LegalLatch]
  · simp [LegalLatch]
  · have hr : s.build.resettable = false := by
      rw [← Bool.not_eq_true]
      exact fun hr => Bool.false_ne_true (hv.symm.trans (h.snap_valid.2 ⟨hr, hk⟩))
    simp [LegalLatch, hr, Instr.opcode]
  · simp [LegalLatch, Instr.opcode]
  · simp [LegalLatch, Instr.opcode]

/-! A pending stream (42_sponge_cshake.md R509). -/

/-- The invariant without what it says of P. -/
theorem inv_resetPend {s : State} (h : s.Inv) : { s with pend := Pending.reset }.Inv :=
  { h with
    init_pending := by simp [Pending.reset]
    init_lengths := by simp [Pending.reset]
    absorb_pending := by simp [Pending.reset]
    seg_one_due := by simp [Pending.reset]
    seg_two_due := by simp [Pending.reset]
    none_due := fun _ => ⟨rfl, rfl⟩
    due_csInit := by simp [Pending.reset]
    due_kmacInit := by simp [Pending.reset] }

/-- With no stream pending P is free but for the bytes due, of which there are none (10_state.md R112). -/
theorem inv_withIdlePend {s : State} {P : Pending} (h : { s with pend := Pending.reset }.Inv) (hop : P.op = .idle)
    (h1 : P.rem1 = 0#64) (h2 : P.rem2 = 0#64) : { s with pend := P }.Inv :=
  { h with
    init_pending := by simp [hop]
    init_lengths := by simp [hop]
    absorb_pending := by simp [hop]
    seg_one_due := by simp [hop]
    seg_two_due := by simp [hop]
    none_due := fun _ => ⟨h1, h2⟩
    due_csInit := by simp [hop]
    due_kmacInit := by simp [hop] }

/-- The invariant of a pending stream before advance(): as State.Inv, but the segment being received may be at its
end. -/
structure Streaming (s : State) : Prop where
  active : s.pend.op ≠ .idle
  rest : { s with pend := Pending.reset }.Inv
  init_pending : s.pend.op = .csInit ∨ s.pend.op = .kmacInit →
    s.phase = .idle ∧ s.sponge.ds = 0x04#8 ∧ s.sponge.spos = 0
  init_lengths : s.pend.op = .csInit ∨ s.pend.op = .kmacInit → s.pend.a.toNat < 2 ^ 61 ∧ s.pend.b.toNat < 2 ^ 61
  absorb_pending : s.pend.op = .absorb →
    (s.phase = .csAbsorb ∨ s.phase = .kmAbsorb) ∧ s.pend.seg = .one ∧ s.pend.rem2 = 0#64
  seg_two : s.pend.seg = .two → s.pend.rem1 = 0#64
  due_csInit : s.pend.op = .csInit → s.pend.rem1.toNat ≤ s.pend.a.toNat ∧ s.pend.rem2.toNat ≤ s.pend.b.toNat
  due_kmacInit : s.pend.op = .kmacInit → s.pend.rem1.toNat ≤ s.pend.b.toNat ∧ s.pend.rem2.toNat ≤ s.pend.a.toNat

theorem Streaming.sponge_inv {s : State} (h : Streaming s) : SpongeInv s.sponge :=
  ⟨h.rest.pos_lt, h.rest.rate_of_var, h.rest.spos_le⟩

/-- A stream whose segment is not at its end. -/
theorem Streaming.inv {s : State} (h : Streaming s) (h1 : s.pend.seg = .one → s.pend.rem1 ≠ 0#64)
    (h2 : s.pend.seg = .two → s.pend.rem2 ≠ 0#64) : s.Inv :=
  { h.rest with
    init_pending := h.init_pending
    init_lengths := h.init_lengths
    absorb_pending := h.absorb_pending
    seg_one_due := fun _ => h1
    seg_two_due := fun _ hs => ⟨h.seg_two hs, h2 hs⟩
    none_due := fun hop => absurd hop h.active
    due_csInit := h.due_csInit
    due_kmacInit := h.due_kmacInit }

/-- Segment 1 of an initialization ends: S absorbs the encodings that follow. -/
theorem Streaming.end1 {s : State} (h : Streaming s) (hi : s.pend.op = .csInit ∨ s.pend.op = .kmacInit)
    (h1 : s.pend.rem1 = 0#64) :
    Streaming { endOfSegment1 s with pend := { s.pend with seg := .two } } := by
  obtain ⟨hph, hds, hspos⟩ := h.init_pending hi
  have hop : s.pend.op ≠ .absorb := by rcases hi with e | e <;> simp [e]
  have hS : SpongeInv (endOfSegment1 s).sponge ∧ (endOfSegment1 s).sponge.var = s.sponge.var ∧
      (endOfSegment1 s).sponge.ds = s.sponge.ds ∧ (endOfSegment1 s).sponge.spos = s.sponge.spos := by
    have hS := h.sponge_inv
    rcases hi with e | e
    · simp [endOfSegment1, e, csInitEnd1, hS.absorb]
    · simp [endOfSegment1, e, kmacInitEnd1, hS.padStd.absorb]
  obtain ⟨hS, hv, hd, hsp⟩ := hS
  exact {
    active := h.active
    rest := inv_of_fields_eq (inv_move (p := .idle) h.rest rfl hS hv (by simp) (by simp [hph]) (by simp))
      (by simp) (by simp) (by simp) (by simp) (by simp) (by simp [hph]) (by simp) (by simp)
    init_pending := fun _ => ⟨by simpa using hph, hd.trans hds, hsp.trans hspos⟩
    init_lengths := h.init_lengths
    absorb_pending := fun e => absurd e hop
    seg_two := fun _ => h1
    due_csInit := h.due_csInit
    due_kmacInit := h.due_kmacInit }

/-- The end of KMAC_INIT neither reads nor writes P. -/
theorem kmacInitEnd2_withPend (s : State) (P : Pending) :
    { kmacInitEnd2 s with pend := P } = kmacInitEnd2 { s with pend := P } := by
  unfold kmacInitEnd2 takeSnapshot onSponge
  dsimp only
  split <;> rfl

/-- Segment 2 of an initialization ends, and the initialization with it. -/
theorem Streaming.end2 {s : State} (h : Streaming s) (hi : s.pend.op = .csInit ∨ s.pend.op = .kmacInit)
    (h1 : s.pend.rem1 = 0#64) (h2 : s.pend.rem2 = 0#64) :
    { endOfSegment2 s with pend := { s.pend with op := .idle } }.Inv := by
  obtain ⟨hph, hds, hspos⟩ := h.init_pending hi
  have hr : { s with pend := { s.pend with op := .idle } }.Inv :=
    inv_withIdlePend (P := { s.pend with op := .idle }) h.rest rfl h1 h2
  rcases hi with e | e
  · have hend : endOfSegment2 s = csInitEnd2 s := by simp [endOfSegment2, e]
    rw [hend]
    exact inv_csInitEnd2 hr rfl hph hds
  · have hend : endOfSegment2 s = kmacInitEnd2 s := by simp [endOfSegment2, e]
    rw [hend, kmacInitEnd2_withPend]
    exact inv_kmacInitEnd2 hr rfl hph hds hspos

/-- A message ends with its only segment, and nothing but P changes. -/
theorem Streaming.endAbsorb {s : State} (h : Streaming s) (ha : s.pend.op = .absorb) (h1 : s.pend.rem1 = 0#64) :
    (advance s).Inv := by
  obtain ⟨_, hseg, h2⟩ := h.absorb_pending ha
  rw [advance_end12 h.active hseg h1 h2]
  simpa [endOfSegment1, endOfSegment2, ha] using
    inv_withIdlePend (P := { s.pend with seg := .two, op := .idle }) h.rest rfl h1 h2

/-- advance() brings a pending stream to the invariant. -/
theorem Streaming.advance {s : State} (h : Streaming s) : (advance s).Inv := by
  by_cases ha : s.pend.op = .absorb
  · obtain ⟨_, hseg, _⟩ := h.absorb_pending ha
    by_cases h1 : s.pend.rem1 = 0#64
    · exact h.endAbsorb ha h1
    · rw [advance_one_due hseg h1]
      exact h.inv (fun _ => h1) (by simp [hseg])
  have hi : s.pend.op = .csInit ∨ s.pend.op = .kmacInit := by
    have := h.active
    cases e : s.pend.op <;> simp_all
  cases hseg : s.pend.seg with
  | one =>
    by_cases h1 : s.pend.rem1 = 0#64
    · by_cases h2 : s.pend.rem2 = 0#64
      · rw [advance_end12 h.active hseg h1 h2]
        exact (h.end1 hi h1).end2 hi h1 h2
      · rw [advance_end1 h.active hseg h1 h2]
        exact (h.end1 hi h1).inv nofun (fun _ => h2)
    · rw [advance_one_due hseg h1]
      exact h.inv (fun _ => h1) (by simp [hseg])
  | two =>
    by_cases h2 : s.pend.rem2 = 0#64
    · rw [advance_end2 h.active hseg h2]
      exact h.end2 hi (h.seg_two hseg) h2
    · rw [advance_two_due hseg h2]
      exact h.inv (by simp [hseg]) (fun _ => h2)

/-! Stream bytes (42_sponge_cshake.md R520). -/

/-- A counted byte takes one from what is due in the segment being received. -/
theorem countByte_spec {P : Pending} (h1 : P.seg = .one → P.rem1 ≠ 0#64) (h2 : P.seg = .two → P.rem2 ≠ 0#64) :
    ∃ r1 r2 : U64, countByte P = { P with rem1 := r1, rem2 := r2 } ∧ r1.toNat ≤ P.rem1.toNat ∧
      r2.toNat ≤ P.rem2.toNat ∧ (P.seg = .two → r1 = P.rem1) := by
  have sub_one_le : ∀ x : U64, x ≠ 0#64 → (x - 1#64).toNat ≤ x.toNat := fun x hx => by bv_omega
  unfold countByte
  cases hs : P.seg with
  | one => exact ⟨P.rem1 - 1#64, P.rem2, by simp, sub_one_le _ (h1 hs), le_rfl, nofun⟩
  | two => exact ⟨P.rem1, P.rem2 - 1#64, by simp, le_rfl, sub_one_le _ (h2 hs), fun _ => rfl⟩

/-- No stream is pending in KM_KEYED. -/
theorem phase_ne_kmKeyed {s : State} (h : s.Inv) (ha : s.pend.op ≠ .idle) : s.phase ≠ .kmKeyed := by
  intro hk
  cases hop : s.pend.op with
  | idle => exact ha hop
  | absorb => simpa [hk] using (h.absorb_pending hop).1
  | csInit => simpa [hk] using (h.init_pending (.inl hop)).1
  | kmacInit => simpa [hk] using (h.init_pending (.inr hop)).1

/-- A stream byte taken from a state that meets the invariant. -/
theorem streaming_countByte {s : State} (h : s.Inv) (ha : s.pend.op ≠ .idle) (v : Byte) :
    Streaming { s with sponge := absorbByte s.sponge v, pend := countByte s.pend } := by
  obtain ⟨r1, r2, hc, hr1, hr2, hseg⟩ := countByte_spec (h.seg_one_due ha) (fun hs => (h.seg_two_due ha hs).2)
  rw [hc]
  exact {
    active := ha
    rest := inv_move (p := s.phase) (inv_resetPend h) rfl ((sponge_inv h).absorbByte v) (by simp)
      (by simpa using h.ds_set) Iff.rfl (fun hk => absurd hk (phase_ne_kmKeyed h ha))
    init_pending := by simpa using h.init_pending
    init_lengths := h.init_lengths
    absorb_pending := fun hop => by
      obtain ⟨hph, hs, h2⟩ := h.absorb_pending hop
      exact ⟨hph, hs, by simpa [h2, BitVec.toNat_eq] using hr2⟩
    seg_two := fun hs => (hseg hs).trans (h.seg_two_due ha hs).1
    due_csInit := fun hop => ⟨hr1.trans (h.due_csInit hop).1, hr2.trans (h.due_csInit hop).2⟩
    due_kmacInit := fun hop => ⟨hr1.trans (h.due_kmacInit hop).1, hr2.trans (h.due_kmacInit hop).2⟩ }

theorem inv_consumeByte {s : State} (h : s.Inv) (ha : s.pend.op ≠ .idle) (v : Byte) : (consumeByte v s).Inv :=
  (streaming_countByte h ha v).advance

theorem inv_consumeBytes {s : State} (h : s.Inv) (B : List Byte) : (consumeBytes B s).Inv := by
  induction B generalizing s with
  | nil => exact h
  | cons v B ih =>
    unfold consumeBytes
    split
    next ha => exact ih (inv_consumeByte h ha v)
    next => exact h

/-! Commands whose checks pass. -/

/-- The stream an initialization issues: SNAP is cleared, S is fresh with ds 0x04 and has absorbed the first encodings
(42_sponge_cshake.md R510, 43_kmac.md R550). -/
theorem streaming_restart {s : State} {P : Pending} (h : s.Inv) (hs : s.pend.op = .idle) (v : Variant) (B : List Byte)
    (hop : P.op = .csInit ∨ P.op = .kmacInit) (hseg : P.seg = .one) (hl : P.a.toNat < 2 ^ 61 ∧ P.b.toNat < 2 ^ 61)
    (hc : P.op = .csInit → P.rem1 = P.a ∧ P.rem2 = P.b) (hk : P.op = .kmacInit → P.rem1 = P.b ∧ P.rem2 = P.a) :
    Streaming { snapClear s with
      phase := .idle, sponge := absorb { spongeClear v with ds := 0x04#8 } B, pend := P } where
  active := by obtain e | e := hop <;> simp [e]
  rest :=
    { inv_resetPend (inv_restart (p := .idle) h hs ((spongeInv_spongeClear v 0x04#8).absorb B) (.inl rfl)) with }
  init_pending := fun _ => ⟨rfl, by simp, by simp [spongeClear]⟩
  init_lengths := fun _ => hl
  absorb_pending := by obtain e | e := hop <;> simp [e]
  seg_two := by simp [hseg]
  due_csInit := fun e => by simp [hc e]
  due_kmacInit := fun e => by simp [hk e]

theorem lengths_lt {s : State} (hl : (lengthTooLong s.lena || lengthTooLong s.lenb) = false) :
    s.lena.toNat < 2 ^ 61 ∧ s.lenb.toNat < 2 ^ 61 := by
  simpa [lengthTooLong] using hl

/-- CS_INIT (42_sponge_cshake.md R510, R512). -/
theorem inv_csInitEffect {s : State} (h : s.Inv) (hop : s.pend.op = .idle) (v : Variant)
    (hl : lengthError (.csInit v) s = false) : (csInitEffect v s).Inv := by
  unfold csInitEffect
  dsimp only
  split
  · exact inv_restart h hop (spongeInv_spongeClear v 0x1F#8) (.inr ⟨rfl, by simp⟩)
  · exact Streaming.advance
      (streaming_restart h hop v _ (.inl rfl) rfl (lengths_lt hl) (fun _ => ⟨rfl, rfl⟩) nofun)

/-- KMAC_INIT (43_kmac.md R550). -/
theorem inv_kmacInitEffect {s : State} (h : s.Inv) (hop : s.pend.op = .idle) (v : Variant)
    (hl : lengthError (.kmacInit v) s = false) : (kmacInitEffect v s).Inv :=
  Streaming.advance (streaming_restart h hop v _ (.inr rfl) rfl (lengths_lt hl) nofun (fun _ => ⟨rfl, rfl⟩))

/-- ABSORB (42_sponge_cshake.md R515). -/
theorem inv_absorbEffect {s : State} (h : s.Inv)
    (hp : s.phase = .csAbsorb ∨ s.phase = .kmKeyed ∨ s.phase = .kmAbsorb) : (absorbEffect s).Inv := by
  have hph : (if s.phase = .kmKeyed then Phase.kmAbsorb else s.phase) = .csAbsorb ∧ s.phase = .csAbsorb
      ∨ (if s.phase = .kmKeyed then Phase.kmAbsorb else s.phase) = .kmAbsorb ∧ KmacPhase s.phase := by
    obtain e | e | e := hp <;> simp [e, KmacPhase]
  unfold absorbEffect
  generalize (if s.phase = .kmKeyed then Phase.kmAbsorb else s.phase) = p at hph ⊢
  have hm : { s with pend := Pending.reset, phase := p }.Inv :=
    inv_move (S := s.sponge) (inv_resetPend h) rfl (sponge_inv h) rfl (fun _ => h.ds_set hp)
      (by obtain ⟨rfl, e⟩ | ⟨rfl, e⟩ := hph <;> simp_all [KmacPhase])
      (by obtain ⟨rfl, _⟩ | ⟨rfl, _⟩ := hph <;> simp)
  exact Streaming.advance {
    active := by simp
    rest := hm
    init_pending := by simp
    init_lengths := by simp
    absorb_pending := fun _ => ⟨hph.imp And.left And.left, rfl, rfl⟩
    seg_two := nofun
    due_csInit := nofun
    due_kmacInit := nofun }

/-- CS_FINAL (42_sponge_cshake.md R523). -/
theorem inv_csFinalEffect {s : State} (h : s.Inv) (hop : s.pend.op = .idle) (hp : s.phase = .csAbsorb) :
    (csFinalEffect s).Inv :=
  inv_move (s := s) h hop (sponge_inv h).finalPad rfl (by simp) (by simp [hp, KmacPhase]) (by simp)

/-- KMAC_FINAL (43_kmac.md R560). -/
theorem inv_kmacFinalEffect {s : State} (h : s.Inv) (hop : s.pend.op = .idle)
    (hp : s.phase = .kmKeyed ∨ s.phase = .kmAbsorb) : (kmacFinalEffect s).Inv :=
  inv_move (s := s) h hop ((sponge_inv h).absorb _).finalPad (by simp [finalPad]) (by simp)
    (by obtain e | e := hp <;> simp [e, KmacPhase]) (by simp)

/-- KMAC_RESTORE (43_kmac.md R562). -/
theorem inv_kmacRestoreEffect {s : State} (h : s.Inv) (hop : s.pend.op = .idle) (hv : s.snapValid = true) :
    (kmacRestoreEffect s).Inv := by
  obtain ⟨fvar, frate, fpos, fds⟩ := h.snap_fields hv
  have hS : SpongeInv (restoredSponge s.snap) :=
    ⟨by simpa [restoredSponge, fpos, frate] using (sponge_inv h).rate_pos,
      by simpa [restoredSponge, fvar, frate] using h.rate_of_var, Nat.zero_le _⟩
  exact inv_move (s := s) h hop hS fvar (by simp [restoredSponge, fds])
    (by simp [KmacPhase, (h.snap_valid.1 hv).2]) (fun _ => ⟨fpos, rfl, fds, fun _ => rfl⟩)

theorem inv_setEncoding {s : State} (h : s.Inv) {E : List Byte} (hE : 2 ≤ E.length ∧ E.length ≤ 9) :
    (setEncoding E s).Inv :=
  { h with
    enc_len := .inr (by
      have : (BitVec.ofNat 4 E.length).toNat = E.length := by
        rw [BitVec.toNat_ofNat]; omega
      simpa [this] using hE) }

/-- Every command whose checks pass keeps the invariant. -/
theorem inv_effect {i : Instr} {s : State} (h : s.Inv) (hf : failedCheck i s = none) : (effect i s).Inv := by
  obtain ⟨hop, hp, hm, hl⟩ := failedCheck_none.1 hf
  cases i with
  | nop => exact h
  | csInit v => exact inv_csInitEffect h hop v hl
  | absorb => exact inv_absorbEffect h (by simpa [phaseAllowed, or_assoc] using hp)
  | csFinal => exact inv_csFinalEffect h hop (by simpa [phaseAllowed] using hp)
  | kmacInit v => exact inv_kmacInitEffect h hop v hl
  | kmacFinal => exact inv_kmacFinalEffect h hop (by simpa [phaseAllowed] using hp)
  | kmacRestore => exact inv_kmacRestoreEffect h hop (by simpa [snapshotMissing] using hm)
  | encLeft => exact inv_setEncoding h (leftEncode_length_bounds _)
  | encRight => exact inv_setEncoding h (rightEncode_length_bounds _)
  | softReset => exact inv_clearBlock s

/-! Register accesses and edges of rst. -/

theorem inv_writeCmd {w : Word} {s t : State} (h : s.Inv) (hw : writeCmd w s = .next t) : t.Inv := by
  obtain ⟨_, e⟩ | ⟨_, _, e⟩ | ⟨_, _, _, e⟩ | ⟨i, c, _, _, _, hf, e⟩ | ⟨i, _, _, _, hf, e⟩ := writeCmd_cases w s
  all_goals
    obtain rfl := Host.Outcome.next.inj (e.symm.trans hw)
  · exact inv_clearBlock s
  · exact h
  · exact inv_raiseError h (by simp [LegalLatch])
  · exact inv_raiseError h (legalLatch_of_failedCheck h hf)
  · exact inv_effect h hf

theorem inv_writeDin {s : State} (h : s.Inv) (w : Word) : (writeDin w s).Inv := by
  obtain ⟨_, e⟩ | ⟨_, _, e⟩ | ⟨_, _, e⟩ := writeDin_cases w s
  all_goals rw [e]
  · exact h
  · exact inv_consumeBytes h _
  · exact inv_raiseError h (by simp [LegalLatch])

theorem inv_writeReg {r : Reg} {v : Word} {s t : State} (h : s.Inv) (hw : writeReg r v s = .next t) : t.Inv := by
  cases r with
  | cmd => exact inv_writeCmd h hw
  | din =>
    obtain rfl := Host.Outcome.next.inj hw
    exact inv_writeDin h v
  | _ =>
    obtain rfl := Host.Outcome.next.inj hw
    exact { h with }

/-- In a squeeze phase nothing is pending. -/
theorem idle_of_squeezing {s : State} (h : s.Inv) (hq : squeezing s.phase = true) : s.pend.op = .idle := by
  have hp : s.phase = .csSqueeze ∨ s.phase = .kmSqueeze := by simpa [squeezing] using hq
  cases hop : s.pend.op with
  | idle => rfl
  | absorb => obtain e | e := (h.absorb_pending hop).1 <;> simp [e] at hp
  | csInit => simp [(h.init_pending (.inl hop)).1] at hp
  | kmacInit => simp [(h.init_pending (.inr hop)).1] at hp

theorem inv_readDout {s : State} (h : s.Inv) : (readDout s).2.Inv := by
  obtain ⟨_, e⟩ | ⟨_, hq, e⟩ | ⟨_, _, e⟩ := readDout_cases s
  all_goals rw [e]
  · exact h
  · have hp : s.phase = .csSqueeze ∨ s.phase = .kmSqueeze := by simpa [squeezing] using hq
    obtain ⟨_, hv, _, _⟩ := squeezeBytes_keeps 4 s.sponge
    exact inv_move (p := s.phase) h (idle_of_squeezing h hq) ((sponge_inv h).squeezeBytes 4) hv
      (by obtain e | e := hp <;> simp [e]) Iff.rfl (by obtain e | e := hp <;> simp [e])
  · exact inv_raiseError h (by simp [LegalLatch])

theorem inv_readReg {s : State} (h : s.Inv) (r : Reg) : (readReg r s).2.Inv := by
  by_cases hr : r = .dout
  · subst hr; exact inv_readDout h
  · rw [readReg_state hr]; exact h

theorem inv_assertReset (s : State) : (assertReset s).Inv := { inv_clearBlock s with }

theorem inv_releaseReset {s : State} (h : s.Inv) : (releaseReset s).Inv := by
  unfold releaseReset
  split
  · exact { inv_clearBlock s with }
  · exact h

end Sys2Proof.Proofs.Invariant

namespace Sys2Proof.Proofs
open Sys2Proof.Machine Sys2Proof.Laws Invariant

/-- Settles O55: the reset state is the reset block with this hardware's parameters. -/
theorem resetSatisfiesInvariant : Obligations.ResetSatisfiesInvariant :=
  inv_clearBlock State.reset

/-- Settles O56: each thing a step can do keeps the invariant. -/
theorem stepKeepsInvariant : Obligations.StepKeepsInvariant := by
  intro s t h hst
  obtain ⟨_, rfl⟩ | ⟨addr, m, v, rest, u, _, _, hw, rfl⟩ | ⟨addr, m, rest, _, _, rfl⟩ | ⟨rest, _, rfl⟩
    | ⟨a, rest, _, _, rfl⟩ | ⟨rest, _, rfl⟩ := step_cases hst
  · exact h
  · exact inv_observe (inv_writeReg (inv_withInputs h rest) hw) _
  · exact inv_observe (inv_readReg (inv_withInputs h rest) _) _
  · exact inv_assertReset _
  · exact inv_assertReset _
  · exact inv_releaseReset (inv_withInputs h rest)

end Sys2Proof.Proofs
end

section
/-! PROOF. Noninterference (10_state.md R125): what an operation leaves outside S.A and SNAP.A it computes from what
stands outside them. `Blind f` says so of an operation f; blind operations compose, and take states that differ in the
secrets only to such states. -/

namespace Sys2Proof.Proofs.Secrets
open Sys2Proof.Machine Sys2Proof.Laws

/-! Sponge primitives -/

/-- S without S.A. -/
def withoutLanes (S : Sponge) : Sponge := { S with lanes := Vector.replicate 25 0#64 }

/-- The lanes of the argument have a part in the lanes of the result only. -/
def SpongeBlind (f : Sponge → Sponge) : Prop := ∀ S, withoutLanes (f S) = withoutLanes (f (withoutLanes S))

theorem SpongeBlind.comp {f g : Sponge → Sponge} (hg : SpongeBlind g) (hf : SpongeBlind f) :
    SpongeBlind fun S => g (f S) := fun S => by
  rw [hg (f S), hf S, ← hg]

theorem spongeBlind_permuteBlock : SpongeBlind permuteBlock := by
  intro S
  simp only [withoutLanes, permuteBlock]

theorem spongeBlind_absorbByte (v : Byte) : SpongeBlind (absorbByte · v) := by
  intro S
  unfold absorbByte
  dsimp only [withoutLanes]
  split <;> rfl

theorem spongeBlind_absorb (B : List Byte) : SpongeBlind (absorb · B) := by
  induction B with
  | nil => exact fun _ => rfl
  | cons v B ih => exact ih.comp (spongeBlind_absorbByte v)

theorem spongeBlind_padStd : SpongeBlind padStd := by
  intro S
  have hp : (withoutLanes S).pos = S.pos := rfl
  unfold padStd
  rw [hp]
  split
  · exact spongeBlind_permuteBlock S
  · rfl

theorem spongeBlind_keypad (m : KeypadMode) : SpongeBlind (keypad m) := by
  cases m with
  | zeroBlock => exact spongeBlind_permuteBlock
  | noBlock => exact spongeBlind_padStd

theorem spongeBlind_finalPad : SpongeBlind finalPad := by
  intro S
  simp only [withoutLanes, finalPad]

theorem spongeBlind_squeezeByte : SpongeBlind fun S => (squeezeByte S).2 := by
  intro S
  unfold squeezeByte refillBlock
  dsimp only [withoutLanes]
  split <;> rfl

theorem spongeBlind_squeezeBytes (n : Nat) : SpongeBlind fun S => (squeezeBytes n S).2 := by
  induction n with
  | zero => exact fun _ => rfl
  | succ n ih => exact ih.comp spongeBlind_squeezeByte

/-! Streams -/

/-- The secrets of the argument have a part in the secrets of the result only. -/
def Blind (f : State → State) : Prop := ∀ s, (f s).withoutSecrets = (f s.withoutSecrets).withoutSecrets

theorem Blind.comp {f g : State → State} (hg : Blind g) (hf : Blind f) : Blind fun s => g (f s) := fun s => by
  rw [hg (f s), hf s, ← hg]

/-- What a blind operation makes of two states that differ in the secrets only. -/
theorem Blind.congr {f : State → State} (hf : Blind f) {s1 s2 : State} (h : s1.withoutSecrets = s2.withoutSecrets) :
    (f s1).withoutSecrets = (f s2).withoutSecrets := by
  rw [hf s1, h, ← hf]

/-- What is read off outside the secrets agrees. -/
theorem eq_of_withoutSecrets_eq {α : Type} (g : State → α) (hg : ∀ s, g s.withoutSecrets = g s) {s1 s2 : State}
    (h : s1.withoutSecrets = s2.withoutSecrets) : g s1 = g s2 := by
  rw [← hg s1, h, hg]

theorem withoutSecrets_build (s : State) : s.withoutSecrets.build = s.build := rfl
theorem withoutSecrets_pend (s : State) : s.withoutSecrets.pend = s.pend := rfl
theorem withoutSecrets_err (s : State) : s.withoutSecrets.err = s.err := rfl
theorem withoutSecrets_phase (s : State) : s.withoutSecrets.phase = s.phase := rfl

theorem blind_onSponge {f : Sponge → Sponge} (hf : SpongeBlind f) : Blind (onSponge f) := fun s =>
  congrArg (fun S => { s.withoutSecrets with sponge := S }) (hf s.sponge)

theorem blind_takeSnapshot : Blind takeSnapshot := by
  intro s
  unfold takeSnapshot
  rw [withoutSecrets_build]
  split <;> rfl

theorem blind_csInitEnd1 : Blind csInitEnd1 := fun s => blind_onSponge (spongeBlind_absorb _) s

theorem blind_kmacInitEnd1 : Blind kmacInitEnd1 := by
  intro s
  have hf : SpongeBlind fun S => absorb (padStd S) (ratePrefix S.rate ++ leftEncode (bitCount s.pend.a)) := fun S =>
    (spongeBlind_absorb (ratePrefix S.rate ++ leftEncode (bitCount s.pend.a))).comp spongeBlind_padStd S
  exact blind_onSponge hf s

theorem blind_setPhase (p : Phase) : Blind fun s => { s with phase := p } := fun _ => rfl

theorem blind_csInitEnd2 : Blind csInitEnd2 := (blind_setPhase .csAbsorb).comp (blind_onSponge spongeBlind_padStd)

theorem blind_kmacInitEnd2 : Blind kmacInitEnd2 := fun s =>
  ((blind_setPhase .kmKeyed).comp blind_takeSnapshot).comp
    (blind_onSponge (spongeBlind_keypad s.build.keypadOnBoundary)) s

theorem blind_endOfSegment1 : Blind endOfSegment1 := by
  intro s
  unfold endOfSegment1
  rw [withoutSecrets_pend]
  cases s.pend.op with
  | idle => rfl
  | csInit => exact blind_csInitEnd1 s
  | absorb => rfl
  | kmacInit => exact blind_kmacInitEnd1 s

theorem blind_endOfSegment2 : Blind endOfSegment2 := by
  intro s
  unfold endOfSegment2
  rw [withoutSecrets_pend]
  cases s.pend.op with
  | idle => rfl
  | csInit => exact blind_csInitEnd2 s
  | absorb => rfl
  | kmacInit => exact blind_kmacInitEnd2 s

theorem blind_mapPend (f : Pending → Pending) : Blind fun s => { s with pend := f s.pend } := fun _ => rfl

theorem blind_advance1 : Blind advance1 := by
  intro s
  unfold advance1
  rw [withoutSecrets_pend]
  split
  · exact (blind_mapPend fun P => { P with seg := .two }).comp blind_endOfSegment1 s
  · rfl

theorem blind_advance2 : Blind advance2 := by
  intro s
  unfold advance2
  rw [withoutSecrets_pend]
  split
  · exact (blind_mapPend fun P => { P with op := .idle }).comp blind_endOfSegment2 s
  · rfl

theorem blind_advance : Blind advance := blind_advance2.comp blind_advance1

theorem blind_consumeByte (v : Byte) : Blind (consumeByte v) :=
  (blind_advance.comp (blind_mapPend countByte)).comp (blind_onSponge (spongeBlind_absorbByte v))

theorem blind_consumeBytes (B : List Byte) : Blind (consumeBytes B) := by
  induction B with
  | nil => exact fun _ => rfl
  | cons v B ih =>
    intro s
    unfold consumeBytes
    rw [withoutSecrets_pend]
    split
    · exact ih.comp (blind_consumeByte v) s
    · rfl

/-! Commands -/

/-- An initialization reads no secret at all: it clears S and SNAP first. -/
theorem blind_csInitEffect (v : Variant) : Blind (csInitEffect v) := fun s => by
  have he : csInitEffect v s.withoutSecrets = csInitEffect v s := rfl
  rw [he]

theorem blind_kmacInitEffect (v : Variant) : Blind (kmacInitEffect v) := fun s => by
  have he : kmacInitEffect v s.withoutSecrets = kmacInitEffect v s := rfl
  rw [he]

/-- ABSORB before advance(): the stream is issued (42_sponge_cshake.md R515). -/
theorem blind_absorbEffect : Blind absorbEffect := fun s =>
  blind_advance
    { s with
      phase := if s.phase = .kmKeyed then .kmAbsorb else s.phase
      pend := { op := .absorb, seg := .one, rem1 := s.lena, rem2 := 0#64, a := s.lena, b := s.lenb } }

theorem blind_csFinalEffect : Blind csFinalEffect :=
  (blind_setPhase .csSqueeze).comp (blind_onSponge spongeBlind_finalPad)

theorem blind_kmacFinalEffect : Blind kmacFinalEffect :=
  (blind_setPhase .kmSqueeze).comp (blind_onSponge (spongeBlind_finalPad.comp (spongeBlind_absorb finalSuffix)))

theorem blind_effect (i : Instr) : Blind (effect i) := by
  cases i with
  | nop => exact fun _ => rfl
  | csInit v => exact blind_csInitEffect v
  | absorb => exact blind_absorbEffect
  | csFinal => exact blind_csFinalEffect
  | kmacInit v => exact blind_kmacInitEffect v
  | kmacFinal => exact blind_kmacFinalEffect
  | kmacRestore => exact fun _ => rfl
  | encLeft => exact fun _ => rfl
  | encRight => exact fun _ => rfl
  | softReset => exact fun _ => rfl

/-! Accesses -/

/-- An outcome without the secrets of the state it answers. -/
def outWithoutSecrets : Out → Out
  | .next t => .next t.withoutSecrets
  | .fault r => .fault r
  | .refused r => .refused r

theorem checked_blind (i : Instr) {f : State → State} (hf : Blind f) (s : State) :
    outWithoutSecrets (checked i f s) = outWithoutSecrets (checked i f s.withoutSecrets) := by
  have hc : failedCheck i s.withoutSecrets = failedCheck i s := rfl
  unfold checked
  rw [withoutSecrets_err, hc]
  split
  · rfl
  · cases failedCheck i s with
    | some c => rfl
    | none => exact congrArg Host.Outcome.next (hf s)

theorem exec_blind (i : Instr) (s : State) :
    outWithoutSecrets (exec i s) = outWithoutSecrets (exec i s.withoutSecrets) := by
  by_cases hi : i = .softReset
  · subst hi; rfl
  · rw [exec_eq_checked hi, exec_eq_checked hi]
    exact checked_blind i (blind_effect i) s

theorem writeCmd_blind (w : Word) (s : State) :
    outWithoutSecrets (writeCmd w s) = outWithoutSecrets (writeCmd w s.withoutSecrets) := by
  unfold writeCmd
  cases decode w with
  | ok i => exact exec_blind i s
  | error e =>
    dsimp only
    rw [withoutSecrets_err]
    split <;> rfl

theorem blind_writeDin (w : Word) : Blind (writeDin w) := by
  intro s
  have hp : s.withoutSecrets.pending = s.pending := rfl
  unfold writeDin
  rw [withoutSecrets_err, hp]
  split
  · rfl
  · split
    · exact blind_consumeBytes _ s
    · rfl

theorem writeReg_blind (r : Reg) (v : Word) (s : State) :
    outWithoutSecrets (writeReg r v s) = outWithoutSecrets (writeReg r v s.withoutSecrets) := by
  cases r with
  | cmd => exact writeCmd_blind v s
  | din => exact congrArg Host.Outcome.next (blind_writeDin v s)
  | _ => rfl

/-- A write takes states that differ in the secrets only to such states. -/
theorem writeReg_congr {r : Reg} {v : Word} {s1 s2 u1 : State} (h : s1.withoutSecrets = s2.withoutSecrets)
    (hw : writeReg r v s1 = .next u1) :
    ∃ u2, writeReg r v s2 = .next u2 ∧ u1.withoutSecrets = u2.withoutSecrets := by
  obtain ⟨u2, hu⟩ := writeReg_next r v s2
  have ho := writeReg_blind r v s1
  rw [h, ← writeReg_blind, hw, hu] at ho
  exact ⟨u2, hu, Host.Outcome.next.inj ho⟩

theorem blind_readDout : Blind fun s => (readDout s).2 := by
  intro s
  unfold readDout
  dsimp only
  rw [withoutSecrets_err, withoutSecrets_phase]
  split
  · rfl
  · split
    · exact blind_onSponge (spongeBlind_squeezeBytes 4) s
    · rfl

theorem blind_readReg (r : Reg) : Blind fun s => (readReg r s).2 := by
  by_cases hr : r = .dout
  · subst hr; exact blind_readDout
  · intro s
    simp only [readReg_state hr]
    rfl

/-- Where no output is available a read of DOUT returns 0 (42_sponge_cshake.md R525, 60_exceptions.md R704). -/
theorem readDout_value_of_no_output {s : State} (h : s.err.err = true ∨ squeezing s.phase = false) :
    (readDout s).1 = 0#32 := by
  obtain ⟨_, e⟩ | ⟨he, hq, _⟩ | ⟨_, _, e⟩ := readDout_cases s
  · rw [e]
  · simp [he, hq] at h
  · rw [e]

/-- The value a read returns, where it is none of the output bytes. -/
theorem readReg_value_withoutSecrets {r : Reg} {s : State}
    (h : r = .dout → s.err.err = true ∨ squeezing s.phase = false) :
    (readReg r s).1 = (readReg r s.withoutSecrets).1 := by
  cases r with
  | dout =>
    exact (readDout_value_of_no_output (h rfl)).trans
      (readDout_value_of_no_output (s := s.withoutSecrets) (h rfl)).symm
  | _ => rfl

/-- A read of two states that differ in the secrets only. -/
theorem readReg_value_congr {r : Reg} {s1 s2 : State} (h : s1.withoutSecrets = s2.withoutSecrets)
    (hr : r = .dout → s1.err.err = true ∨ squeezing s1.phase = false) : (readReg r s1).1 = (readReg r s2).1 := by
  have hr2 : r = .dout → s2.err.err = true ∨ squeezing s2.phase = false := by
    rw [← eq_of_withoutSecrets_eq State.err (fun _ => rfl) h, ← eq_of_withoutSecrets_eq State.phase (fun _ => rfl) h]
    exact hr
  rw [readReg_value_withoutSecrets hr, h, ← readReg_value_withoutSecrets hr2]

theorem squeezing_eq_false {p : Phase} : squeezing p = false ↔ p ≠ .csSqueeze ∧ p ≠ .kmSqueeze := by
  simp [squeezing]

/-! Edges of rst -/

theorem blind_assertReset : Blind assertReset := fun _ => rfl

theorem blind_abandonAccess (a : BusAccess) : Blind (abandonAccess a) := by
  cases a <;> exact fun _ => rfl

theorem blind_releaseReset : Blind releaseReset := by
  intro s
  have hr : s.withoutSecrets.rst = s.rst := rfl
  unfold releaseReset
  rw [hr]
  split <;> rfl

/-- A step of the other state whose answer differs in the secrets only, observations included. -/
theorem answers_alike {s2 t1 t2 : State} {p : Prop} (h2 : step s2 = .next t2)
    (ht : t1.withoutSecrets = t2.withoutSecrets) :
    ∃ t2, step s2 = .next t2 ∧
      { t1.withoutSecrets with observed := [] } = { t2.withoutSecrets with observed := [] } ∧
      (p → t1.withoutSecrets = t2.withoutSecrets) :=
  ⟨t2, h2, congrArg (fun t : State => { t with observed := [] }) ht, fun _ => ht⟩

end Sys2Proof.Proofs.Secrets

namespace Sys2Proof.Proofs
open Sys2Proof.Machine Sys2Proof.Laws Secrets

/-- Settles O57: every event is handled by blind operations; the value read is the one observation that may differ. -/
theorem noReadPathToSecrets : Obligations.NoReadPathToSecrets := by
  intro s1 s2 t1 h hst
  have hbase : s1.build.kccBase = s2.build.kccBase :=
    eq_of_withoutSecrets_eq (fun s => s.build.kccBase) (fun _ => rfl) h
  have hin : s1.inputs = s2.inputs := eq_of_withoutSecrets_eq State.inputs (fun _ => rfl) h
  have hrst : s1.rst = s2.rst := eq_of_withoutSecrets_eq State.rst (fun _ => rfl) h
  have hrest : ∀ rest, (s1.withInputs rest).withoutSecrets = (s2.withInputs rest).withoutSecrets := fun rest =>
    Blind.congr (f := fun s => s.withInputs rest) (fun _ => rfl) h
  obtain ⟨hi, rfl⟩ | ⟨addr, m, v, rest, u, hi, hr, hw, rfl⟩ | ⟨addr, m, rest, hi, hr, rfl⟩ | ⟨rest, hi, rfl⟩
    | ⟨a, rest, hi, hr, rfl⟩ | ⟨rest, hi, rfl⟩ := step_cases hst
  case inl => exact answers_alike (step_of_no_inputs (hin ▸ hi)) h
  case inr.inl =>
    obtain ⟨u2, hw2, hu⟩ := writeReg_congr (hrest rest) (hbase ▸ hw)
    have hirq : irq u = irq u2 := eq_of_withoutSecrets_eq irq (fun _ => rfl) hu
    refine answers_alike (step_write (hin ▸ hi) (hrst ▸ hr) hw2) ?_
    rw [hirq]
    exact Blind.congr (f := observe (.wrote (irq u2))) (fun _ => rfl) hu
  case inr.inr.inl =>
    have hu := (blind_readReg (selectReg s1.build.kccBase addr)).congr (hrest rest)
    refine ⟨_, step_read (hin ▸ hi) (hrst ▸ hr), ?_, fun hd => ?_⟩
    · rw [← hbase]
      exact congrArg (fun t : State => { t with observed := [] }) hu
    · have hv := readReg_value_congr (r := selectReg s1.build.kccBase addr) (hrest rest)
        (fun hsel => (hd addr m rest hi hsel).imp_right squeezing_eq_false.2)
      have hirq := eq_of_withoutSecrets_eq irq (fun _ => rfl) hu
      rw [← hbase, hv, hirq]
      exact Blind.congr (f := observe _) (fun _ => rfl) hu
  case inr.inr.inr.inl => exact answers_alike (step_assertRst (hin ▸ hi)) (blind_assertReset.congr (hrest rest))
  case inr.inr.inr.inr.inl =>
    exact answers_alike (step_assertRstDuring (hin ▸ hi) (hrst ▸ hr))
      ((blind_assertReset.comp (blind_abandonAccess a)).congr (hrest rest))
  case inr.inr.inr.inr.inr => exact answers_alike (step_releaseRst (hin ▸ hi)) (blind_releaseReset.congr (hrest rest))

end Sys2Proof.Proofs
end

section
/-! PROOF. What can happen to the snapshot (10_state.md R122): advance(), stream bytes and commands leave it, clear it,
or take it where a KMAC_INIT completes (43_kmac.md R556, R563). -/

namespace Sys2Proof.Proofs.Snapshot
open Sys2Proof.Machine Sys2Proof.Laws

/-- SNAP and SNAP_VALID are as before. -/
abbrev SameSnapshot (s t : State) : Prop := t.snap = s.snap ∧ t.snapValid = s.snapValid

/-- SNAP and SNAP_VALID hold their reset values. -/
abbrev SnapshotCleared (t : State) : Prop := t.snap = Snapshot.reset ∧ t.snapValid = false

/-- A KMAC_INIT of a resettable core has completed: SNAP is a copy of S in KM_KEYED (43_kmac.md R556). -/
abbrev SnapshotTaken (s t : State) : Prop :=
  s.build.resettable = true ∧ t.snapValid = true ∧ t.snap = snapshotOf t.sponge ∧ t.phase = .kmKeyed ∧ t.pend.op = .idle

/-- The end of segment 2 takes the snapshot if the command is KMAC_INIT and the core is resettable. -/
theorem endOfSegment2_snapshot (s : State) {P : Pending} (hP : P.op = .idle) :
    SameSnapshot s { endOfSegment2 s with pend := P }
    ∨ (s.pend.op = .kmacInit ∧ SnapshotTaken s { endOfSegment2 s with pend := P }) := by
  unfold endOfSegment2
  cases hop : s.pend.op with
  | idle => exact .inl ⟨rfl, rfl⟩
  | csInit => exact .inl ⟨rfl, rfl⟩
  | absorb => exact .inl ⟨rfl, rfl⟩
  | kmacInit =>
    cases hr : s.build.resettable with
    | false => exact .inl (by simp [SameSnapshot, kmacInitEnd2, hr])
    | true => exact .inr (by simp [SnapshotTaken, kmacInitEnd2, hr, hP])

/-- advance() keeps the snapshot and the command unless it completes a KMAC_INIT. -/
theorem advance_snapshot (s : State) :
    (SameSnapshot s (advance s) ∧ ((advance s).pend.op = s.pend.op ∨ (advance s).pend.op = .idle))
    ∨ (s.pend.op = .kmacInit ∧ SnapshotTaken s (advance s)) := by
  obtain e | ⟨_, _, _, _, e⟩ | ⟨_, _, _, e⟩ | ⟨_, _, _, _, e⟩ := advance_cases s
  · exact .inl (by simp [SameSnapshot, e])
  · exact .inl (by simp [SameSnapshot, e])
  · rw [e]
    exact (endOfSegment2_snapshot s rfl).imp_left fun h => ⟨h, .inr rfl⟩
  · rw [e]
    exact (endOfSegment2_snapshot { endOfSegment1 s with pend := { s.pend with seg := .two } } rfl).imp
      (fun h => ⟨by simpa using h, .inr rfl⟩) (fun h => by simpa using h)

theorem countByte_op (P : Pending) : (countByte P).op = P.op := by
  unfold countByte
  cases P.seg <;> rfl

theorem consumeByte_snapshot (v : Byte) (s : State) :
    (SameSnapshot s (consumeByte v s) ∧ ((consumeByte v s).pend.op = s.pend.op ∨ (consumeByte v s).pend.op = .idle))
    ∨ (s.pend.op = .kmacInit ∧ SnapshotTaken s (consumeByte v s)) := by
  have h := advance_snapshot { s with sponge := absorbByte s.sponge v, pend := countByte s.pend }
  simp only [countByte_op] at h
  exact h

theorem consumeBytes_of_idle {s : State} (h : s.pend.op = .idle) (B : List Byte) : consumeBytes B s = s := by
  cases B <;> simp [consumeBytes, h]

/-- The bytes of a DIN word keep the snapshot, or complete the pending KMAC_INIT, which takes it. -/
theorem consumeBytes_snapshot (B : List Byte) (s : State) :
    SameSnapshot s (consumeBytes B s) ∨ (s.pend.op = .kmacInit ∧ SnapshotTaken s (consumeBytes B s)) := by
  induction B generalizing s with
  | nil => exact .inl ⟨rfl, rfl⟩
  | cons v B ih =>
    unfold consumeBytes
    split
    next =>
      obtain ⟨⟨hn, hv⟩, hop⟩ | ⟨hk, ht⟩ := consumeByte_snapshot v s
      · obtain ⟨hn', hv'⟩ | ⟨hk, hr, ht⟩ := ih (consumeByte v s)
        · exact .inl ⟨hn'.trans hn, hv'.trans hv⟩
        · rw [consumeByte_build] at hr
          exact .inr ⟨by simpa [hk, eq_comm] using hop, hr, ht⟩
      · obtain ⟨_, _, _, _, hidle⟩ := id ht
        rw [consumeBytes_of_idle hidle]
        exact .inr ⟨hk, ht⟩
    next => exact .inl ⟨rfl, rfl⟩

/-- A command keeps the snapshot or clears it, unless it is a KMAC_INIT with nothing to receive, which takes it. -/
theorem effect_snapshot (i : Instr) (s : State) :
    SameSnapshot s (effect i s) ∨ SnapshotCleared (effect i s)
    ∨ ∃ v, i = .kmacInit v ∧ SnapshotTaken s (effect i s) := by
  cases i with
  | nop => exact .inl ⟨rfl, rfl⟩
  | csInit v =>
    refine .inr (.inl ?_)
    unfold effect csInitEffect
    dsimp only
    split
    · exact ⟨rfl, rfl⟩
    · obtain ⟨⟨hn, hv⟩, _⟩ | ⟨hk, _⟩ := advance_snapshot _
      · exact ⟨hn, hv⟩
      · cases hk
  | absorb =>
    unfold effect absorbEffect
    obtain ⟨⟨hn, hv⟩, _⟩ | ⟨hk, _⟩ := advance_snapshot _
    · exact .inl ⟨hn, hv⟩
    · cases hk
  | csFinal => exact .inl ⟨rfl, rfl⟩
  | kmacInit v =>
    unfold effect kmacInitEffect
    obtain ⟨⟨hn, hv⟩, _⟩ | ⟨_, ht⟩ := advance_snapshot _
    · exact .inr (.inl ⟨hn, hv⟩)
    · exact .inr (.inr ⟨v, rfl, ht⟩)
  | kmacFinal => exact .inl ⟨rfl, rfl⟩
  | kmacRestore => exact .inl ⟨rfl, rfl⟩
  | encLeft => exact .inl ⟨rfl, rfl⟩
  | encRight => exact .inl ⟨rfl, rfl⟩
  | softReset => exact .inr (.inl ⟨rfl, rfl⟩)

theorem readReg_snapshot (r : Reg) (s : State) : SameSnapshot s (readReg r s).2 := by
  by_cases hr : r = .dout
  · subst hr
    show SameSnapshot s (readDout s).2
    obtain ⟨_, e⟩ | ⟨_, _, e⟩ | ⟨_, _, e⟩ := readDout_cases s
    all_goals
      rw [e]
      exact ⟨rfl, rfl⟩
  · rw [readReg_state hr]
    exact ⟨rfl, rfl⟩

/-- What a write does to the snapshot, and which writes take it. -/
theorem writeReg_snapshot {r : Reg} {w : Word} {s u : State} (hw : writeReg r w s = .next u) :
    SameSnapshot s u ∨ SnapshotCleared u
    ∨ (SnapshotTaken s u ∧
      ((r = .din ∧ s.pend.op = .kmacInit) ∨ (r = .cmd ∧ (w = 0x00000004#32 ∨ w = 0x00000104#32)))) := by
  cases r with
  | cmd =>
    obtain ⟨_, e⟩ | ⟨_, _, e⟩ | ⟨_, _, _, e⟩ | ⟨i, c, _, _, _, _, e⟩ | ⟨i, hd, _, _, _, e⟩ := writeCmd_cases w s
    all_goals
      obtain rfl := Host.Outcome.next.inj (e.symm.trans hw)
    · exact .inr (.inl ⟨rfl, rfl⟩)
    · exact .inl ⟨rfl, rfl⟩
    · exact .inl ⟨rfl, rfl⟩
    · exact .inl ⟨rfl, rfl⟩
    · obtain h | h | ⟨v, rfl, ht⟩ := effect_snapshot i s
      · exact .inl h
      · exact .inr (.inl h)
      · have hword : w = 0x00000004#32 ∨ w = 0x00000104#32 := by
          rw [← encode_of_decode hd]
          cases v <;> decide
        exact .inr (.inr ⟨ht, .inr ⟨rfl, hword⟩⟩)
  | din =>
    obtain rfl := Host.Outcome.next.inj hw
    obtain ⟨_, e⟩ | ⟨_, _, e⟩ | ⟨_, _, e⟩ := writeDin_cases w s
    · exact .inl (by rw [e]; exact ⟨rfl, rfl⟩)
    · rw [e]
      obtain h | ⟨hk, ht⟩ := consumeBytes_snapshot (wordBytes w) s
      · exact .inl h
      · exact .inr (.inr ⟨ht, .inl ⟨rfl, hk⟩⟩)
    · exact .inl (by rw [e]; exact ⟨rfl, rfl⟩)
  | _ =>
    obtain rfl := Host.Outcome.next.inj hw
    exact .inl ⟨rfl, rfl⟩

theorem releaseReset_snapshot (s : State) : SameSnapshot s (releaseReset s) ∨ SnapshotCleared (releaseReset s) := by
  unfold releaseReset
  split
  · exact .inr ⟨rfl, rfl⟩
  · exact .inl ⟨rfl, rfl⟩

end Sys2Proof.Proofs.Snapshot

namespace Sys2Proof.Proofs
open Sys2Proof.Machine Sys2Proof.Laws Snapshot

/-- Settles O58: only writes take a snapshot, and edges of rst clear it. -/
theorem snapshotWrittenOnlyByKmacInit : Obligations.SnapshotWrittenOnlyByKmacInit := by
  intro s t hst hne
  obtain ⟨_, rfl⟩ | ⟨addr, m, w, rest, u, hi, _, hw, rfl⟩ | ⟨addr, m, rest, _, _, rfl⟩ | ⟨rest, _, rfl⟩
    | ⟨a, rest, _, _, rfl⟩ | ⟨rest, _, rfl⟩ := step_cases hst
  · exact absurd ⟨rfl, rfl⟩ hne
  · obtain h | h | ⟨⟨hr, hv, hn, hp, hop⟩, hsel⟩ := writeReg_snapshot hw
    · exact absurd h hne
    · exact .inl h
    · exact .inr ⟨hr, hv, hn, hp, hop, addr, m, w, rest, hi, hsel⟩
  · exact absurd (readReg_snapshot _ (s.withInputs rest)) hne
  · exact .inl ⟨rfl, rfl⟩
  · exact .inl ⟨rfl, rfl⟩
  · exact .inl ((releaseReset_snapshot (s.withInputs rest)).resolve_left hne)

end Sys2Proof.Proofs
end

section
/-! PROOF. The command words (30_encoding.md R301 to R304, R307): the legal words are the encodings of the instructions,
and an illegal one written to CMD is latched or ignored. -/

namespace Sys2Proof.Proofs.CommandWords
open Sys2Proof Sys2Proof.Machine

theorem decode_encode (i : Instr) : decode (encode i) = .ok i := by
  cases i with
  | csInit v | kmacInit v => cases v <;> rfl
  | _ => rfl

theorem wellFormed_eq_true (i : Instr) : i.wellFormed = true := by cases i <;> rfl

/-- The legal words are the encodings. -/
theorem decodes_iff_encode (w : Word) : (∃ i, decode w = .ok i) ↔ ∃ i, encode i = w :=
  ⟨fun ⟨i, h⟩ => ⟨i, encode_of_decode h⟩, fun ⟨i, h⟩ => ⟨i, h ▸ decode_encode i⟩⟩

theorem rejected_iff_not_decodes (w : Word) : (∃ e, decode w = .error e) ↔ ¬ ∃ i, decode w = .ok i := by
  cases decode w <;> simp

/-- The ten commands, each initialization with both variants, in the order of 30_encoding.md R304. -/
def instructions : List Instr :=
  [.nop, .csInit .v128, .csInit .v256, .absorb, .csFinal, .kmacInit .v128, .kmacInit .v256, .kmacFinal, .kmacRestore,
    .encLeft, .encRight, .softReset]

theorem mem_instructions (i : Instr) : i ∈ instructions := by
  cases i with
  | csInit v | kmacInit v => cases v <;> decide
  | _ => decide

theorem mem_encodings_iff (w : Word) : w ∈ instructions.map encode ↔ ∃ i, encode i = w := by
  simp [mem_instructions]

/-- OP as a number (30_encoding.md R301). -/
theorem opField_eq_ofNat (w : Word) : CmdWord.opField w = BitVec.ofNat 8 (w.toNat % 256) := by
  apply BitVec.eq_of_toNat_eq
  simp [CmdWord.opField]

/-- An illegal word written to CMD is ignored while ERR = 1 and is latched otherwise (30_encoding.md R307). -/
theorem writeReg_cmd_of_error {w : Word} {e : IllegalWord} (h : decode w = .error e) (s : State) :
    writeReg .cmd w s =
      if s.err.err then .next s else .next (raiseError .illegalCmd .cmdWrite (CmdWord.opField w) s) := by
  simp only [writeReg, writeCmd, h, CmdWord.opField]

end Sys2Proof.Proofs.CommandWords

namespace Sys2Proof.Proofs
open Sys2Proof Sys2Proof.Machine CommandWords

/-- Settles O1: the twelve words are the encodings of the instructions, listed in the same order. -/
theorem legalWordsAreExactlyTwelve : Obligations.LegalWordsAreExactlyTwelve := fun w =>
  (decodes_iff_encode w).trans (mem_encodings_iff w).symm

/-- Settles O2: read as numbers, the words outside the list of twelve are those (a), (b) or (c) holds of. -/
theorem illegalWordsByCondition : Obligations.IllegalWordsByCondition := by
  refine fun w => ⟨?_, fun e he s => ?_⟩
  · rw [rejected_iff_not_decodes, legalWordsAreExactlyTwelve w]
    simp only [List.mem_cons, List.not_mem_nil, or_false, ← BitVec.toNat_inj, BitVec.reduceToNat]
    omega
  · rw [writeReg_cmd_of_error he, opField_eq_ofNat]
    rfl

/-- Settles O3: each direction is one of the two inverse laws. -/
theorem decodeEncodeAgree : Obligations.DecodeEncodeAgree :=
  ⟨fun i _ => decode_encode i, fun _ i h => ⟨wellFormed_eq_true i, encode_of_decode h⟩⟩

/-- Settles O4: each word is the encoding of its command. -/
theorem opcodeWordsDecode : Obligations.OpcodeWordsDecode :=
  ⟨decode_encode .nop, decode_encode (.csInit .v128), decode_encode (.csInit .v256), decode_encode .absorb,
    decode_encode .csFinal, decode_encode (.kmacInit .v128), decode_encode (.kmacInit .v256), decode_encode .kmacFinal,
    decode_encode .kmacRestore, decode_encode .encLeft, decode_encode .encRight, decode_encode .softReset⟩

end Sys2Proof.Proofs
end

section
/-! PROOF. The length encodings (40_encoders.md R400 to R403): minlen is least, and the value bytes stand for n. -/

namespace Sys2Proof.Proofs.LengthEncodings
open Sys2Proof.Machine Sys2Proof.Laws

/-! minlen -/

theorem lt_two_pow_minlen (n : U64) : n.toNat < 2 ^ (8 * minlen n) := by
  unfold minlen; repeat' split
  all_goals omega

/-- A number needs its last value byte: it does not fit in one byte fewer. -/
theorem two_pow_le_of_one_lt_minlen {n : U64} (h : 1 < minlen n) : 2 ^ (8 * (minlen n - 1)) ≤ n.toNat := by
  revert h
  unfold minlen; repeat' split
  all_goals omega

theorem minlen_le_of_lt_two_pow {n : U64} {L : Nat} (hL : 1 ≤ L) (h : n.toNat < 2 ^ (8 * L)) : minlen n ≤ L := by
  by_contra hlt
  have hn : 2 ^ (8 * (minlen n - 1)) ≤ n.toNat := two_pow_le_of_one_lt_minlen (by omega)
  have hmono : 2 ^ (8 * L) ≤ 2 ^ (8 * (minlen n - 1)) := Nat.pow_le_pow_right (by decide) (by omega)
  omega

/-! The value bytes -/

theorem foldl_bytes_eq (B : List Byte) (acc : Nat) :
    B.foldl (fun acc b => 256 * acc + b.toNat) acc = 256 ^ B.length * acc + bigEndianValue B := by
  unfold bigEndianValue
  induction B generalizing acc with
  | nil => simp
  | cons b B ih =>
    rw [List.foldl_cons, List.foldl_cons, ih, ih (256 * 0 + b.toNat), List.length_cons, Nat.pow_succ]
    ring

@[simp] theorem bigEndianValue_nil : bigEndianValue [] = 0 := rfl

theorem bigEndianValue_cons (b : Byte) (B : List Byte) :
    bigEndianValue (b :: B) = 256 ^ B.length * b.toNat + bigEndianValue B := by
  show B.foldl (fun acc b => 256 * acc + b.toNat) (256 * 0 + b.toNat) = _
  rw [foldl_bytes_eq, Nat.mul_zero, Nat.zero_add]

/-- The low L bytes of n, most significant first, stand for n modulo 2^(8L). -/
theorem bigEndianValue_bigEndianBytes (n : U64) (L : Nat) :
    bigEndianValue (bigEndianBytes n L) = n.toNat % 2 ^ (8 * L) := by
  induction L with
  | zero => simp [bigEndianBytes, Nat.mod_one]
  | succ L ih =>
    have hbyte : (n.extractLsb' (8 * L) 8).toNat = n.toNat / 2 ^ (8 * L) % 2 ^ 8 := by
      rw [BitVec.extractLsb'_toNat, Nat.shiftRight_eq_div_pow]
    calc bigEndianValue (bigEndianBytes n (L + 1))
        = 256 ^ L * (n.toNat / 2 ^ (8 * L) % 2 ^ 8) + n.toNat % 2 ^ (8 * L) := by
          rw [bigEndianBytes, bigEndianValue_cons, bigEndianBytes_length, hbyte, ih]
      _ = n.toNat % 2 ^ (8 * L) + 2 ^ (8 * L) * (n.toNat / 2 ^ (8 * L) % 2 ^ 8) := by
          rw [Nat.add_comm, Nat.pow_mul]
      _ = n.toNat % 2 ^ (8 * (L + 1)) := by
          rw [← Nat.mod_mul, ← Nat.pow_add, Nat.mul_succ]

theorem bigEndianValue_valueBytes (n : U64) : bigEndianValue (valueBytes n) = n.toNat := by
  rw [valueBytes, bigEndianValue_bigEndianBytes, Nat.mod_eq_of_lt (lt_two_pow_minlen n)]

/-! Where the value bytes stand -/

@[simp] theorem leftEncode_tail (n : U64) : (leftEncode n).tail = valueBytes n := rfl

@[simp] theorem rightEncode_dropLast (n : U64) : (rightEncode n).dropLast = valueBytes n := List.dropLast_concat

theorem rightEncode_getLast? (n : U64) : (rightEncode n).getLast? = some (lengthByte n) := List.getLast?_concat

end Sys2Proof.Proofs.LengthEncodings

namespace Sys2Proof.Proofs
open Sys2Proof.Machine Sys2Proof.Laws LengthEncodings

/-- Settles O7: n fits in minlen n bytes and, where minlen n is above 1, not in one byte fewer. -/
theorem minlenIsLeast : Obligations.MinlenIsLeast := fun n =>
  ⟨minlen_pos n, lt_two_pow_minlen n, fun _ => minlen_le_of_lt_two_pow⟩

/-- Settles O8: without the length byte both encodings are the value bytes. -/
theorem encodingsShareValueBytes : Obligations.EncodingsShareValueBytes := by
  intro n
  obtain ⟨hl, hl'⟩ := leftEncode_length_bounds n
  obtain ⟨hr, hr'⟩ := rightEncode_length_bounds n
  exact ⟨hl, hl', hr, hr', by rw [leftEncode_tail, rightEncode_dropLast]⟩

/-- Settles O9: the value bytes stand for n, since n fits in minlen n bytes. -/
theorem encodingsHoldLengthAndValue : Obligations.EncodingsHoldLengthAndValue := by
  refine fun n => ⟨rfl, leftEncode_length n, ?_, rightEncode_getLast? n, rightEncode_length n, ?_⟩
  · rw [leftEncode_tail, bigEndianValue_valueBytes]
  · rw [rightEncode_dropLast, bigEndianValue_valueBytes]

end Sys2Proof.Proofs
end

section
/-! PROOF. The encoder commands (40_encoders.md R410, R411): the bytes of the encoder registers (10_state.md R110); and
KMAC_FINAL with its suffix (40_encoders.md R406, 43_kmac.md R560). -/

namespace Sys2Proof.Proofs.EncoderRegisters
open Sys2Proof.Machine Sys2Proof.Laws

/-- Byte k of a packed word is byte k of the string, 0 past its end (20_memory.md R204). -/
theorem wordByte_packWord (B : List Byte) {k : Nat} (hk : k < 4) : wordByte (packWord B) k = B.getD k 0x00#8 := by
  apply BitVec.eq_of_getLsbD_eq
  intro i hi
  unfold wordByte packWord
  simp only [BitVec.getLsbD_extractLsb', BitVec.getLsbD_append]
  interval_cases k
  all_goals grind

theorem getD_drop (B : List Byte) (j k : Nat) : (B.drop j).getD k 0x00#8 = B.getD (j + k) 0x00#8 := by
  simp [List.getD_eq_getElem?_getD]

/-- Byte k of the encoder registers is byte k of the string they hold: word k div 4, byte k mod 4. -/
theorem encByte_setEncoding (E : List Byte) (s : State) {k : Nat} (hk : k < 12) :
    (setEncoding E s).encByte k = E.getD k 0x00#8 := by
  have hj : k % 4 < 4 := Nat.mod_lt _ (by decide)
  unfold State.encByte
  rw [setEncoding_encW0, setEncoding_encW1, setEncoding_encW2]
  split
  · rw [wordByte_packWord E hj, show k % 4 = k by omega]
  · split
    · rw [wordByte_packWord _ hj, getD_drop, show 4 + k % 4 = k by omega]
    · rw [wordByte_packWord _ hj, getD_drop, show 8 + k % 4 = k by omega]

theorem setEncoding_encLen_toNat {E : List Byte} (h : E.length < 16) (s : State) :
    (setEncoding E s).encLen.toNat = E.length := by
  rw [setEncoding_encLen, BitVec.toNat_ofNat, Nat.mod_eq_of_lt h]

/-- A command that answers setEncoding writes the encoder registers and nothing else. -/
theorem writes_of_exec_eq_setEncoding {i : Instr} {E : List Byte} {s : State}
    (hx : exec i s = .next (setEncoding E s)) (hE : E.length < 16) :
    ∃ t, exec i s = .next t ∧ t.encLen.toNat = E.length ∧ (∀ k, k < 12 → t.encByte k = E.getD k 0x00#8) ∧
      { t with encLen := s.encLen, encW0 := s.encW0, encW1 := s.encW1, encW2 := s.encW2 } = s :=
  ⟨_, hx, setEncoding_encLen_toNat hE s, fun _ => encByte_setEncoding E s, rfl⟩

end Sys2Proof.Proofs.EncoderRegisters

namespace Sys2Proof.Proofs
open Sys2Proof.Machine Sys2Proof.Laws EncoderRegisters

/-- In a ready state a command whose checks of phase, snapshot and length pass takes its effect. -/
theorem exec_of_ready {i : Instr} {s : State} (hs : Ready s) (hi : i ≠ .softReset)
    (hp : phaseAllowed i s.phase = true) (hm : snapshotMissing i s = false) (hl : lengthError i s = false) :
    exec i s = .next (effect i s) :=
  exec_performs hi hs.1 (failedCheck_none.2 ⟨hs.2, hp, hm, hl⟩)

/-- Settles O10: ENC_LEFT is allowed in every phase, and left_encode is at most 9 bytes long. -/
theorem encLeftWritesEncoderRegisters : Obligations.EncLeftWritesEncoderRegisters := by
  intro s hs
  have hx : exec .encLeft s = .next (setEncoding (leftEncode s.lena) s) := exec_of_ready hs nofun rfl rfl rfl
  have hE := (leftEncode_length_bounds s.lena).2
  exact writes_of_exec_eq_setEncoding hx (by omega)

/-- Settles O11: ENC_RIGHT is allowed in every phase, and right_encode is at most 9 bytes long. -/
theorem encRightWritesEncoderRegisters : Obligations.EncRightWritesEncoderRegisters := by
  intro s hs
  have hx : exec .encRight s = .next (setEncoding (rightEncode s.lena) s) := exec_of_ready hs nofun rfl rfl rfl
  have hE := (rightEncode_length_bounds s.lena).2
  exact writes_of_exec_eq_setEncoding hx (by omega)

/-- Settles O29: KMAC_FINAL is allowed in the two phases, and the suffix right_encode(0) is [00, 01]. -/
theorem kmacFinalOpensTheSqueeze : Obligations.KmacFinalOpensTheSqueeze := by
  intro s hs hp
  have hx : exec .kmacFinal s = .next (kmacFinalEffect s) :=
    exec_of_ready hs nofun (by simpa [phaseAllowed] using hp) rfl rfl
  rw [hx, kmacFinalEffect, finalSuffix_eq]

end Sys2Proof.Proofs
end

section
/-! PROOF. The step mappings of Keccak-f[1600] by lane and the two tables by their recurrences (41_keccak_f.md R452 to R457,
R462, R463). -/

namespace Sys2Proof.Proofs.StepMappings
open Sys2Proof.Machine Sys2Proof.Laws

/-! Rotations -/

theorem getLsbD_rotl64 (v : Lane) (n : Nat) {i : Nat} (hi : i < 64) :
    (rotl64 v n).getLsbD i = v.getLsbD ((i + (64 - n % 64)) % 64) := by
  rw [rotl64, BitVec.getLsbD_rotateLeft]
  by_cases h : i < n % 64
  · simp only [h, decide_true, cond_true]
    congr 1; omega
  · simp only [h, hi, decide_false, decide_true, cond_false, Bool.true_and]
    congr 1; omega

theorem rotl64_xor (a b : Lane) (n : Nat) : rotl64 (a ^^^ b) n = rotl64 a n ^^^ rotl64 b n := by
  apply BitVec.eq_of_getLsbD_eq
  intro i hi
  simp only [BitVec.getLsbD_xor, getLsbD_rotl64 _ _ hi]

theorem rotl64_rotl64 (v : Lane) (m n : Nat) : rotl64 (rotl64 v m) n = rotl64 v (m + n) := by
  apply BitVec.eq_of_getLsbD_eq
  intro i hi
  rw [getLsbD_rotl64 _ _ hi, getLsbD_rotl64 _ _ (Nat.mod_lt _ (by decide)), getLsbD_rotl64 _ _ hi]
  congr 1; omega

theorem rotl64_of_mod_eq_zero (v : Lane) {n : Nat} (h : n % 64 = 0) : rotl64 v n = v := by
  apply BitVec.eq_of_getLsbD_eq
  intro i hi
  rw [getLsbD_rotl64 _ _ hi]
  congr 1; omega

theorem rotl64_injective (n : Nat) : Function.Injective fun v => rotl64 v n :=
  Function.LeftInverse.injective (g := fun v => rotl64 v (64 - n % 64)) fun v =>
    (rotl64_rotl64 v n _).trans (rotl64_of_mod_eq_zero v (by omega))

/-! π, and the two tables -/

/-- The second form of 41_keccak_f.md R454: where π puts a lane. -/
theorem lane_pi_at_target (A : Lanes) (x y : Fin 5) : lane (pi A) y (2 * x + 3 * y) = lane A x y := by
  have hx : ∀ x y : Fin 5, y + 3 * (2 * x + 3 * y) = x := by decide
  rw [lane_pi, hx]

/-- The word whose bit 2^j - 1 is f j for each j of the list, every other bit 0. -/
def sparseWord (f : Nat → Bool) (js : List Nat) : BitVec 64 :=
  js.foldr (fun j w => w ||| (BitVec.ofBool (f j)).setWidth 64 <<< (2 ^ j - 1)) 0#64

theorem getLsbD_sparseWord (f : Nat → Bool) (js : List Nat) {k : Nat} (hk : k < 64) :
    (sparseWord f js).getLsbD k = js.any fun j => decide (k = 2 ^ j - 1) && f j := by
  induction js with
  | nil => simp [sparseWord]
  | cons j js ih =>
    have hbit : ((BitVec.ofBool (f j)).setWidth 64 <<< (2 ^ j - 1)).getLsbD k = (decide (k = 2 ^ j - 1) && f j) := by
      simp only [BitVec.getLsbD_shiftLeft, BitVec.getLsbD_setWidth, BitVec.getLsbD_ofBool]
      grind
    rw [List.any_cons, ← hbit, ← ih, Bool.or_comm]
    exact BitVec.getLsbD_or

/-- The table of 41_keccak_f.md R457 against the shift register of R462, word by word. -/
theorem roundConstant_eq_sparseWord : ∀ ir : Nat, ir < 24 →
    roundConstant ir = sparseWord (fun j => rcBit (j + 7 * ir)) (List.range 7) := by
  decide

/-- The table of 41_keccak_f.md R453 against the recurrence of R463. -/
theorem rhoOffset_rhoPlace : ∀ t : Nat, t < 24 →
    rhoOffset (rhoPlace t).1 (rhoPlace t).2 = (t + 1) * (t + 2) / 2 % 64 := by
  decide

end Sys2Proof.Proofs.StepMappings

namespace Sys2Proof.Proofs
open Sys2Proof.Machine Sys2Proof.Laws StepMappings

/-- Settles O12: the two forms of π agree because (x, y) ↦ (y, 2x + 3y) and (x, y) ↦ (x + 3y, x) are inverse modulo 5. -/
theorem stepMappingsByLane : Obligations.StepMappingsByLane := fun A x y =>
  ⟨lane_theta A x y, lane_pi A x y, lane_pi_at_target A x y, lane_chi A x y, fun ir => lane_iota A ir x y⟩

/-- Settles O13: ρ rotates each lane by its table entry, and both tables are those of the recurrences. -/
theorem tablesByRecurrence : Obligations.TablesByRecurrence := by
  refine ⟨fun ir hir k hk => ?_, fun A => ?_, fun A t ht => ?_⟩
  · rw [roundConstant_eq_sparseWord ir hir, getLsbD_sparseWord _ _ hk]
  · exact (lane_rho A 0 0).trans (rotl64_of_mod_eq_zero _ rfl)
  · rw [lane_rho, rhoOffset_rhoPlace t ht, rotl64]

end Sys2Proof.Proofs
end

section
/-! PROOF. Keccak-f[1600] is a bijection (41_keccak_f.md R459): each step mapping is injective, and the states are
finitely many. θ multiplies the column parities, read as a polynomial over GF(2) with x^5 = z^64 = 1, by 1 + x + x^(-1)·z,
which has an inverse. -/

namespace Sys2Proof.Proofs.Permutation
open Sys2Proof.Machine Sys2Proof.Laws StepMappings

/-! θ -/

/-- Multiplication of five column parities by 1 + x^d + x^(-d)·z^n, where x moves to the next column and z rotates by one.
θ multiplies the parities by the one with d = n = 1. -/
def mulParity (d : Fin 5) (n : Nat) (c : Fin 5 → Lane) : Fin 5 → Lane := fun x =>
  c x ^^^ (c (x + 4 * d) ^^^ rotl64 (c (x + d)) n)

/-- The column parity of θ(A): of the five terms D[x] of a column one is left. -/
theorem thetaC_theta (A : Lanes) (x : Fin 5) : thetaC (theta A) x = thetaC A x ^^^ thetaD A x := by
  simp only [thetaC, lane_theta]
  generalize thetaD A x = D
  have hpairs : lane A x 0 ^^^ D ^^^ (lane A x 1 ^^^ D) ^^^ (lane A x 2 ^^^ D) ^^^ (lane A x 3 ^^^ D) ^^^
      (lane A x 4 ^^^ D) = (D ^^^ D) ^^^ (D ^^^ D) ^^^
        (lane A x 0 ^^^ lane A x 1 ^^^ lane A x 2 ^^^ lane A x 3 ^^^ lane A x 4 ^^^ D) := by ac_rfl
  simpa using hpairs

theorem thetaC_theta_eq_mulParity (A : Lanes) : thetaC (theta A) = mulParity 1 1 (thetaC A) :=
  funext (thetaC_theta A)

theorem xor_cross_terms (a p q s t u : Lane) :
    a ^^^ (p ^^^ q) ^^^ (p ^^^ (s ^^^ u) ^^^ (q ^^^ (u ^^^ t))) = a ^^^ (s ^^^ t) := by
  have hpairs : a ^^^ (p ^^^ q) ^^^ (p ^^^ (s ^^^ u) ^^^ (q ^^^ (u ^^^ t))) =
      (p ^^^ p) ^^^ (q ^^^ q) ^^^ (u ^^^ u) ^^^ (a ^^^ (s ^^^ t)) := by ac_rfl
  simpa using hpairs

theorem xor_paired_terms (a p q s u : Lane) :
    a ^^^ (p ^^^ q) ^^^ (s ^^^ (u ^^^ p) ^^^ (u ^^^ (q ^^^ s))) = a := by
  have hpairs : a ^^^ (p ^^^ q) ^^^ (s ^^^ (u ^^^ p) ^^^ (u ^^^ (q ^^^ s))) =
      (p ^^^ p) ^^^ (q ^^^ q) ^^^ (s ^^^ s) ^^^ (u ^^^ u) ^^^ a := by ac_rfl
  simpa using hpairs

/-- The cross terms of the square cancel. -/
theorem mulParity_mulParity (d : Fin 5) (n : Nat) (c : Fin 5 → Lane) :
    mulParity d n (mulParity d n c) = mulParity (2 * d) (2 * n) c := by
  have hback : ∀ x d : Fin 5, x + 4 * d + 4 * d = x + 4 * (2 * d) := by decide
  have hcross : ∀ x d : Fin 5, x + 4 * d + d = x ∧ x + d + 4 * d = x := by decide
  have hfwd : ∀ x d : Fin 5, x + d + d = x + 2 * d := by decide
  funext x
  simp only [mulParity, rotl64_xor, rotl64_rotl64, hback, hcross, hfwd, ← Nat.two_mul]
  exact xor_cross_terms ..

/-- Where z^n = 1, (1 + x^d + x^(-d))·(1 + x^(2d) + x^(-2d)) = 1, since x^5 = 1. -/
theorem mulParity_leftInverse (d : Fin 5) {n : Nat} (hn : n % 64 = 0) :
    Function.LeftInverse (mulParity (2 * d) n) (mulParity d n) := by
  intro c
  have hback : ∀ x d : Fin 5, x + 4 * (2 * d) = x + 3 * d := by decide
  have hthree : ∀ x d : Fin 5, x + 3 * d + 4 * d = x + 2 * d ∧ x + 3 * d + d = x + 4 * d := by decide
  have htwo : ∀ x d : Fin 5, x + 2 * d + 4 * d = x + d ∧ x + 2 * d + d = x + 3 * d := by decide
  funext x
  simp only [mulParity, rotl64_of_mod_eq_zero _ hn, hback, hthree, htwo]
  exact xor_paired_terms ..

/-- A factor whose square is injective is injective; squaring j times reaches z^n = 1. -/
theorem mulParity_injective (j : Nat) : ∀ (d : Fin 5) (n : Nat), 2 ^ j * n % 64 = 0 →
    Function.Injective (mulParity d n) := by
  induction j with
  | zero => exact fun d n hn => (mulParity_leftInverse d (by simpa using hn)).injective
  | succ j ih =>
    intro d n hn
    have hsquare : mulParity d n ∘ mulParity d n = mulParity (2 * d) (2 * n) := funext (mulParity_mulParity d n)
    have hinj : Function.Injective (mulParity (2 * d) (2 * n)) :=
      ih _ _ (by rwa [← Nat.mul_assoc, ← Nat.pow_succ])
    exact Function.Injective.of_comp (f := mulParity d n) (hsquare ▸ hinj)

theorem theta_injective : Function.Injective theta := by
  intro A B h
  have hC : thetaC A = thetaC B := mulParity_injective 6 1 1 (by decide) (by
    simpa only [thetaC_theta_eq_mulParity] using congrArg thetaC h)
  refine lanes_ext fun x y => ?_
  have hl := congrArg (lane · x y) h
  simpa only [lane_theta, thetaD, hC, BitVec.xor_left_inj] using hl

/-! ρ and π -/

theorem rho_injective : Function.Injective rho := by
  intro A B h
  refine lanes_ext fun x y => rotl64_injective (rhoOffset x y) ?_
  simpa only [lane_rho] using congrArg (lane · x y) h

theorem pi_injective : Function.Injective pi := by
  intro A B h
  refine lanes_ext fun x y => ?_
  rw [← lane_pi_at_target A, ← lane_pi_at_target B, h]

/-! χ -/

/-- χ on one row of five bits. -/
def chiRow (b : Fin 5 → Bool) : Fin 5 → Bool := fun x => b x ^^ (!b (x + 1) && b (x + 2))

/-- Bit k of the lanes of row y. -/
def rowBits (A : Lanes) (y : Fin 5) (k : Nat) : Fin 5 → Bool := fun x => (lane A x y).getLsbD k

/-- χ on a row has order 4. -/
theorem chiRow_four_times : ∀ b, chiRow (chiRow (chiRow (chiRow b))) = b := by decide

theorem chiRow_injective : Function.Injective chiRow :=
  Function.LeftInverse.injective (g := fun b => chiRow (chiRow (chiRow b))) chiRow_four_times

theorem rowBits_chi (A : Lanes) (y : Fin 5) {k : Nat} (hk : k < 64) : rowBits (chi A) y k = chiRow (rowBits A y k) := by
  funext x
  simp [rowBits, chiRow, lane_chi, hk]

theorem chi_injective : Function.Injective chi := by
  intro A B h
  refine lanes_ext fun x y => BitVec.eq_of_getLsbD_eq fun k hk => ?_
  have hrow : rowBits A y k = rowBits B y k := chiRow_injective (by rw [← rowBits_chi A y hk, h, rowBits_chi B y hk])
  exact congrFun hrow x

/-! ι and the rounds -/

theorem iota_injective (ir : Nat) : Function.Injective fun A => iota A ir := by
  intro A B h
  refine lanes_ext fun x y => ?_
  have hl := congrArg (lane · x y) h
  simp only [lane_iota] at hl
  split at hl
  · exact (BitVec.xor_left_inj _).1 hl
  · exact hl

theorem keccakRound_injective (ir : Nat) : Function.Injective fun A => keccakRound A ir :=
  (iota_injective ir).comp <| chi_injective.comp <| pi_injective.comp <| rho_injective.comp theta_injective

theorem rounds_injective (rounds : List Nat) : Function.Injective fun A => rounds.foldl keccakRound A := by
  induction rounds with
  | nil => exact Function.injective_id
  | cons ir rounds ih => exact ih.comp (keccakRound_injective ir)

theorem finite_lanes : Finite Lanes :=
  Finite.of_injective lane fun _ _ h => lanes_ext fun x y => congrFun (congrFun h x) y

end Sys2Proof.Proofs.Permutation

namespace Sys2Proof.Proofs
open Sys2Proof.Machine Sys2Proof.Laws Permutation

/-- Settles O14: every round is injective, and an injective function on finitely many states is bijective. -/
theorem keccakFIsBijective : Obligations.KeccakFIsBijective :=
  have := finite_lanes
  Finite.injective_iff_bijective.1 (rounds_injective (List.range 24))

end Sys2Proof.Proofs
end

section
/-! PROOF. The bytes of the Keccak state (41_keccak_f.md R451). -/

namespace Sys2Proof.Proofs.StateBytes
open Sys2Proof.Machine Sys2Proof.Laws

theorem laneAt_eq_lane (A : Lanes) {l : Nat} {x y : Fin 5} (h : l = x.val + 5 * y.val) : laneAt A l = lane A x y := by
  have hl : l < 25 := by omega
  simp only [laneAt, lane, h, Vector.getElem?_eq_getElem (h ▸ hl), Option.getD_some]

theorem laneAt_xorByte (A : Lanes) (v : Byte) {i : Nat} (hi : i < 200) (l : Nat) :
    laneAt (xorByte A i v) l =
      if i / 8 = l then laneAt A l ^^^ (v.setWidth 64 <<< (8 * (i % 8))) else laneAt A l := by
  have hl : i / 8 < 25 := by omega
  simp only [laneAt, xorByte, Vector.getElem?_setIfInBounds, hl]
  split
  · next h => simp [h]
  · rfl

/-- Byte q of a lane that is XORed with v at byte p. -/
theorem byte_xor_shifted (a : Lane) (v : Byte) {p q : Nat} (hq : q < 8) :
    (a ^^^ (v.setWidth 64 <<< (8 * p))).extractLsb' (8 * q) 8 =
      if q = p then a.extractLsb' (8 * q) 8 ^^^ v else a.extractLsb' (8 * q) 8 := by
  apply BitVec.eq_of_getLsbD_eq
  intro k hk
  have hbit : 8 * q + k < 64 := by omega
  split
  · next h =>
    subst h
    simp [hk, hbit]
  · next h =>
    have hv : (v.setWidth 64 <<< (8 * p)).getLsbD (8 * q + k) = false := by
      rw [BitVec.getLsbD_shiftLeft]
      obtain hlt | hgt := Nat.lt_or_gt_of_ne h
      · simp [show 8 * q + k < 8 * p by omega]
      · simp [BitVec.getLsbD_of_ge v (8 * q + k - 8 * p) (by omega)]
    simp [hk, hv]

end Sys2Proof.Proofs.StateBytes

namespace Sys2Proof.Proofs
open Sys2Proof.Machine Sys2Proof.Laws StateBytes

/-- Settles O15: a byte of another lane is not touched, and of the same lane only byte i mod 8 is. -/
theorem stateBytesReadAndXor : Obligations.StateBytesReadAndXor := by
  refine ⟨fun A i x y hi hx hy => ?_, fun A i j v hi hj => ?_⟩
  · rw [getByte, laneAt_eq_lane A (x := x) (y := y) (by omega)]
  · rw [getByte, laneAt_xorByte A v hi]
    by_cases hl : i / 8 = j / 8
    · rw [if_pos hl, byte_xor_shifted _ _ (by omega)]
      have : j % 8 = i % 8 ↔ j = i := by omega
      simp only [this, getByte]
    · rw [if_neg hl, if_neg (by omega), getByte]

end Sys2Proof.Proofs
end

section
/-! PROOF. The sponge by bytes and by blocks (42_sponge_cshake.md R501 to R508). -/

namespace Sys2Proof.Proofs.SpongeBlocks
open Sys2Proof.Machine Sys2Proof.Laws StateBytes

/-! XOR of bytes into the state -/

/-- Two states with the same bytes are equal. -/
theorem lanes_ext_getByte {A B : Lanes} (h : ∀ j, j < 200 → getByte A j = getByte B j) : A = B := by
  refine lanes_ext fun x y => BitVec.eq_of_getLsbD_eq fun k hk => ?_
  have hb := h (8 * (x.val + 5 * y.val) + k / 8) (by omega)
  have hdiv : (8 * (x.val + 5 * y.val) + k / 8) / 8 = x.val + 5 * y.val := by omega
  have hmod : (8 * (x.val + 5 * y.val) + k / 8) % 8 = k / 8 := by omega
  rw [getByte, getByte, hdiv, hmod, laneAt_eq_lane A rfl, laneAt_eq_lane B rfl] at hb
  have hbit := congrArg (BitVec.getLsbD · (k % 8)) hb
  have hk8 : 8 * (k / 8) + k % 8 = k := by omega
  simpa [BitVec.getLsbD_extractLsb', hk8, Nat.mod_lt] using hbit

theorem getByte_xorByte (A : Lanes) {i j : Nat} (v : Byte) (hi : i < 200) (hj : j < 200) :
    getByte (xorByte A i v) j = if j = i then getByte A j ^^^ v else getByte A j :=
  stateBytesReadAndXor.2 A i j v hi hj

theorem xorByte_zero (A : Lanes) {i : Nat} (hi : i < 200) : xorByte A i 0#8 = A :=
  lanes_ext_getByte fun j hj => by simp [getByte_xorByte A _ hi hj]

theorem xorByte_xorByte (A : Lanes) {i : Nat} (v w : Byte) (hi : i < 200) :
    xorByte (xorByte A i v) i w = xorByte A i (v ^^^ w) := by
  refine lanes_ext_getByte fun j hj => ?_
  simp only [getByte_xorByte _ _ hi hj]
  split
  · exact BitVec.xor_assoc ..
  · rfl

/-! XOR of a block into the state -/

/-- Byte q of eight bytes read as a lane (41_keccak_f.md R451). -/
theorem byte_laneOfBytes (B : List Byte) (i : Nat) {q : Nat} (hq : q < 8) :
    (laneOfBytes B i).extractLsb' (8 * q) 8 = B.getD (i + q) 0#8 := by
  apply BitVec.eq_of_getLsbD_eq
  intro k hk
  unfold laneOfBytes
  simp only [BitVec.getLsbD_extractLsb', BitVec.getLsbD_append]
  interval_cases q
  all_goals grind

/-- Byte j of a state with a block XORed in is its byte j with byte j of the block (42_sponge_cshake.md R502). -/
theorem getByte_xorBlock (A : Lanes) (B : List Byte) {j : Nat} (hj : j < 200) :
    getByte (xorBlock A B) j = getByte A j ^^^ B.getD j 0#8 := by
  have hl : j / 8 = (⟨j / 8 % 5, by omega⟩ : Fin 5).val + 5 * (⟨j / 8 / 5, by omega⟩ : Fin 5).val := by
    show j / 8 = j / 8 % 5 + 5 * (j / 8 / 5)
    omega
  rw [getByte, getByte, laneAt_eq_lane _ hl, laneAt_eq_lane _ hl, xorBlock, lane_mkLanes, ← hl,
    BitVec.extractLsb'_xor, byte_laneOfBytes B _ (Nat.mod_lt _ (by decide)), Nat.div_add_mod]

theorem xorBlock_nil (A : Lanes) : xorBlock A [] = A :=
  lanes_ext_getByte fun j hj => by simp [getByte_xorBlock A _ hj]

/-- The last byte of a block is XORed in where the block ends. -/
theorem xorBlock_concat (A : Lanes) (B : List Byte) (v : Byte) (hB : B.length < 200) :
    xorBlock A (B ++ [v]) = xorByte (xorBlock A B) B.length v := by
  refine lanes_ext_getByte fun j hj => ?_
  rw [getByte_xorByte _ _ hB hj, getByte_xorBlock A _ hj, getByte_xorBlock A _ hj]
  obtain hlt | rfl | hgt := Nat.lt_trichotomy j B.length
  · simp [List.getD_eq_getElem?_getD, List.getElem?_append_left hlt, hlt.ne]
  · simp [List.getD_eq_getElem?_getD]
  · have hnone : (B ++ [v])[j]? = none := List.getElem?_eq_none (by simpa using hgt)
    simp [List.getD_eq_getElem?_getD, hnone, hgt.ne', List.getElem?_eq_none hgt.le]

/-! Absorption up to the end of a block -/

theorem absorbByte_within {S : Sponge} (v : Byte) (h : S.pos + 1 < S.rate) :
    absorbByte S v = { S with lanes := xorByte S.lanes S.pos v, pos := S.pos + 1 } := by
  simp [absorbByte, h.ne]

theorem absorbByte_last {S : Sponge} (v : Byte) (h : S.pos + 1 = S.rate) :
    absorbByte S v = permuteBlock { S with lanes := xorByte S.lanes S.pos v } := by
  simp [absorbByte, h, permuteBlock]

/-- Zeros move the position and nothing else, before the end of the block. -/
theorem absorb_zeroBytes_within {S : Sponge} {k : Nat} (h : S.pos + k < S.rate) (hr : S.rate ≤ 200) :
    absorb S (zeroBytes k) = { S with pos := S.pos + k } := by
  induction k generalizing S with
  | zero => rfl
  | succ k ih =>
    have hz : zeroBytes (k + 1) = 0#8 :: zeroBytes k := rfl
    have hone : absorbByte S 0#8 = { S with pos := S.pos + 1 } := by
      rw [absorbByte_within _ (by omega), xorByte_zero _ (by omega)]
    rw [hz, absorb_cons, hone, ih (S := { S with pos := S.pos + 1 }) (by dsimp only; omega) hr]
    dsimp only
    rw [Nat.add_assoc, Nat.add_comm 1 k]

/-- A string, then the byte that ends the block. -/
theorem absorb_concat (S : Sponge) (B : List Byte) (v : Byte) : absorb S (B ++ [v]) = absorbByte (absorb S B) v :=
  absorb_append S B [v]

theorem zeroBytes_succ (k : Nat) : zeroBytes (k + 1) = zeroBytes k ++ [0#8] := List.replicate_succ'

/-- Zeros up to the end of the block permute it as it stands. -/
theorem absorb_zeroBytes_to_end {S : Sponge} (h : S.pos < S.rate) (hr : S.rate ≤ 200) :
    absorb S (zeroBytes (S.rate - S.pos)) = permuteBlock S := by
  obtain ⟨k, hk⟩ : ∃ k, S.rate - S.pos = k + 1 := ⟨S.rate - S.pos - 1, by omega⟩
  rw [hk, zeroBytes_succ, absorb_concat, absorb_zeroBytes_within (by omega) hr,
    absorbByte_last _ (by dsimp only; omega), xorByte_zero _ (by dsimp only; omega)]
  rfl

/-- From the start of a block, a string shorter than the block is XORed in as a block. -/
theorem absorb_partial_block {S : Sponge} (B : List Byte) (hp : S.pos = 0) (hB : B.length < S.rate)
    (hr : S.rate ≤ 200) : absorb S B = { S with lanes := xorBlock S.lanes B, pos := B.length } := by
  induction B using List.reverseRecOn with
  | nil => rw [xorBlock_nil, List.length_nil, ← hp, absorb_nil]
  | append_singleton B v ih =>
    rw [List.length_append, List.length_singleton] at hB
    rw [absorb_concat, ih (by omega), absorbByte_within _ hB, xorBlock_concat _ _ _ (by omega), List.length_append,
      List.length_singleton]

/-- From the start of a block, a whole block is XORed in and permuted. -/
theorem absorb_block {S : Sponge} {B : List Byte} (hp : S.pos = 0) (hB : B.length = S.rate) (h0 : 0 < S.rate)
    (hr : S.rate ≤ 200) : absorb S B = { S with lanes := keccakF (xorBlock S.lanes B) } := by
  obtain rfl | ⟨B, v, rfl⟩ := List.eq_nil_or_concat' B
  · exact absurd hB h0.ne
  · rw [List.length_append, List.length_singleton] at hB
    rw [absorb_concat, absorb_partial_block B hp (by omega) hr, absorbByte_last _ hB, xorBlock_concat _ _ _ (by omega),
      permuteBlock, ← hp]

/-- The full blocks of a string, XORed in and permuted one by one (42_sponge_cshake.md R502). -/
theorem absorb_full_blocks {S : Sponge} (n : Nat) (M : List Byte) (hp : S.pos = 0) (hM : S.rate * n ≤ M.length)
    (h0 : 0 < S.rate) (hr : S.rate ≤ 200) :
    absorb S (M.take (S.rate * n)) = { S with lanes := absorbBlocks S.rate n M S.lanes } := by
  induction n generalizing S M with
  | zero => rfl
  | succ n ih =>
    rw [Nat.mul_succ] at hM ⊢
    have hblock : (M.take S.rate).length = S.rate := by rw [List.length_take]; omega
    rw [Nat.add_comm, List.take_add, absorb_append, absorb_block hp hblock h0 hr]
    exact ih (S := { S with lanes := keccakF (xorBlock S.lanes (M.take S.rate)) }) (M.drop S.rate) hp
      (by rw [List.length_drop]; dsimp only; omega) h0 hr

/-- The buffer model of 42_sponge_cshake.md R502: the full blocks one by one, then what is left of the string. -/
theorem absorb_eq_blocks {S : Sponge} (M : List Byte) (hp : S.pos = 0) (h0 : 0 < S.rate) (hr : S.rate ≤ 200) :
    absorb S M = { S with
      lanes := xorBlock (absorbBlocks S.rate (M.length / S.rate) M S.lanes) (M.drop (S.rate * (M.length / S.rate)))
      pos := M.length % S.rate } := by
  have hrest : (M.drop (S.rate * (M.length / S.rate))).length = M.length % S.rate := by
    rw [List.length_drop, ← Nat.mod_eq_sub_mul_div]
  have hlt : (M.drop (S.rate * (M.length / S.rate))).length < S.rate := by rw [hrest]; exact Nat.mod_lt _ h0
  calc absorb S M
      = absorb (absorb S (M.take (S.rate * (M.length / S.rate)))) (M.drop (S.rate * (M.length / S.rate))) := by
        rw [← absorb_append, List.take_append_drop]
    _ = _ := by
        rw [absorb_full_blocks _ M hp (Nat.mul_div_le ..) h0 hr,
          absorb_partial_block (S := { S with lanes := absorbBlocks S.rate (M.length / S.rate) M S.lanes }) _ hp hlt hr,
          hrest]

/-! The squeeze -/

/-- Output byte k after the position of S (42_sponge_cshake.md R508). -/
def outputFrom (S : Sponge) (k : Nat) : Byte :=
  getByte (keccakF^[(S.spos + k) / S.rate] S.lanes) ((S.spos + k) % S.rate)

theorem squeezeByte_eq_outputFrom {S : Sponge} (h0 : 0 < S.rate) (h : S.spos ≤ S.rate) :
    (squeezeByte S).1 = outputFrom S 0 := by
  unfold squeezeByte refillBlock outputFrom
  obtain e | hlt := h.eq_or_lt
  · simp [e, h0]
  · simp [hlt.ne, Nat.div_eq_of_lt hlt, Nat.mod_eq_of_lt hlt]

/-- After a byte the output goes on with the next: the block used up is permuted when its successor is needed. -/
theorem outputFrom_squeezeByte {S : Sponge} (h0 : 0 < S.rate) (k : Nat) :
    outputFrom (squeezeByte S).2 k = outputFrom S (k + 1) := by
  unfold squeezeByte refillBlock outputFrom
  by_cases e : S.spos = S.rate
  · have hn : S.rate + (k + 1) = (0 + 1 + k) + S.rate := by omega
    simp only [e, if_true, hn, Nat.add_div_right _ h0, Nat.add_mod_right, Function.iterate_succ_apply]
  · have hn : S.spos + (k + 1) = S.spos + 1 + k := by omega
    simp only [e, if_false, hn]

theorem squeezeBytes_eq_map_outputFrom {S : Sponge} (n : Nat) (h0 : 0 < S.rate) (h : S.spos ≤ S.rate) :
    (squeezeBytes n S).1 = (List.range n).map (outputFrom S) := by
  induction n generalizing S with
  | zero => rfl
  | succ n ih =>
    have hspos : (squeezeByte S).2.spos ≤ (squeezeByte S).2.rate := by
      rw [squeezeByte_spos, squeezeByte_rate]; split <;> omega
    have htail : (squeezeBytes n (squeezeByte S).2).1 = (List.range n).map fun k => outputFrom S (k + 1) := by
      rw [ih (by simpa using h0) hspos]
      exact List.map_congr_left fun k _ => outputFrom_squeezeByte h0 k
    rw [squeezeBytes, htail, squeezeByte_eq_outputFrom h0 h, List.range_succ_eq_map, List.map_cons, List.map_map]
    rfl

end Sys2Proof.Proofs.SpongeBlocks

namespace Sys2Proof.Proofs
open Sys2Proof.Machine Sys2Proof.Laws SpongeBlocks

/-- Settles O16: zeros up to the end of the block permute it as it stands. -/
theorem padStdAbsorbsZeros : Obligations.PadStdAbsorbsZeros := by
  intro S h hr
  unfold padStd
  by_cases hp : S.pos = 0
  · simp [hp, zeroBytes]
  · rw [if_pos hp, Nat.mod_eq_of_lt (by omega), absorb_zeroBytes_to_end h hr]

/-- Settles O18: the domain byte and 0x80 share the last byte, or the zeros between them move the position only. -/
theorem finalPadClosesTheBlock : Obligations.FinalPadClosesTheBlock := by
  intro S h hr
  unfold finalPad
  split
  next hlast =>
    rw [absorb_cons, absorb_nil, absorbByte_last _ (by omega), ← hlast, xorByte_xorByte _ _ _ (by omega)]
    rfl
  next hlast =>
    have hend : S.pos + 1 + (S.rate - S.pos - 2) = S.rate - 1 := by omega
    have hzeros : absorb S ([S.ds] ++ zeroBytes (S.rate - S.pos - 2)) =
        { S with lanes := xorByte S.lanes S.pos S.ds, pos := S.rate - 1 } := by
      rw [List.singleton_append, absorb_cons, absorbByte_within _ (by omega),
        absorb_zeroBytes_within (S := { S with lanes := xorByte S.lanes S.pos S.ds, pos := S.pos + 1 })
          (by dsimp only; omega) hr, hend]
    rw [absorb_concat, hzeros, absorbByte_last _ (by dsimp only; omega)]
    rfl

/-- Settles O19: at spos = 0 the output from the position is the output from the start. -/
theorem outputSequenceByBlocks : Obligations.OutputSequenceByBlocks := by
  intro S n h0 hs
  rw [squeezeBytes_eq_map_outputFrom n h0 (by omega)]
  exact List.map_congr_left fun k _ => by rw [outputFrom, hs, Nat.zero_add]

/-- Settles O20: a cleared sponge stands at the start of a block. -/
theorem bufferModelEquivalence : Obligations.BufferModelEquivalence := by
  intro v M
  have hr : rateOf v ≤ 200 := (rateOf_le v).trans (by decide)
  rw [absorb_eq_blocks (S := spongeClear v) M rfl (rateOf_pos v) hr]
  exact ⟨rfl, rfl⟩

end Sys2Proof.Proofs
end

section
/-! PROOF. The commands of the two stream phases, with the whole next state (42_sponge_cshake.md R510, R512, R515, R523;
43_kmac.md R550): the encodings they absorb written out, and where advance() leaves the stream a command
issues. -/

namespace Sys2Proof.Proofs.CommandEffects
open Sys2Proof.Machine Sys2Proof.Laws

/-- The rate of 00_scope.md R2 by cases on the variant. -/
theorem rateOf_eq_ite (v : Variant) : rateOf v = if v = .v128 then 168 else 136 := by cases v <;> rfl

/-- left_encode(R) is the byte 1 and R (40_encoders.md R405). -/
theorem ratePrefix_rateOf (v : Variant) : ratePrefix (rateOf v) = [0x01#8, BitVec.ofNat 8 (rateOf v)] := by
  cases v <;> decide

/-- The encodings KMAC_INIT absorbs before 8b, written out (43_kmac.md R551). -/
theorem kmacPrefix_rateOf (v : Variant) (b : U64) :
    kmacPrefix (rateOf v) b =
      [0x01#8, BitVec.ofNat 8 (rateOf v), 0x01#8, 0x20#8, 0x4B#8, 0x4D#8, 0x41#8, 0x43#8] ++ leftEncode (8 * b) := by
  have hlen : leftEncode 32#64 = [0x01#8, 0x20#8] := by decide
  rw [kmacPrefix, ratePrefix_rateOf, hlen]
  rfl

theorem lengthTooLong_eq_false {n : U64} (h : n.toNat < 2 ^ 61) : lengthTooLong n = false :=
  decide_eq_false (Nat.not_le.2 h)

/-- An initialization with lengths below 2^61 passes its checks (60_exceptions.md R702). -/
theorem exec_init_of_ready {i : Instr} {v : Variant} {s : State} (hi : i = .csInit v ∨ i = .kmacInit v) (hs : Ready s)
    (ha : s.lena.toNat < 2 ^ 61) (hb : s.lenb.toNat < 2 ^ 61) : exec i s = .next (effect i s) := by
  have hl : (lengthTooLong s.lena || lengthTooLong s.lenb) = false := by
    rw [lengthTooLong_eq_false ha, lengthTooLong_eq_false hb, Bool.or_false]
  obtain rfl | rfl := hi
  · exact exec_of_ready hs nofun rfl rfl hl
  · exact exec_of_ready hs nofun rfl rfl hl

/-- What CS_INIT puts before advance(): left_encode(R) and left_encode(8a) absorbed into a fresh sponge, and the stream
of N and S (42_sponge_cshake.md R510). -/
def csInitIssued (v : Variant) (s : State) : State :=
  { snapClear s with
    phase := .idle
    sponge := absorb { spongeClear v with ds := 0x04#8 } (ratePrefix (rateOf v) ++ leftEncode (8 * s.lena))
    pend := { op := .csInit, seg := .one, rem1 := s.lena, rem2 := s.lenb, a := s.lena, b := s.lenb } }

theorem csInitIssued_active (v : Variant) (s : State) : (csInitIssued v s).pend.op ≠ .idle := by
  show PendOp.csInit ≠ .idle
  decide

/-- What CS_INIT answers with both lengths 0: a fresh sponge with the domain byte of SHAKE
(42_sponge_cshake.md R512). -/
def shakeStarted (v : Variant) (s : State) : State :=
  { snapClear s with sponge := { spongeClear v with ds := 0x1F#8 }, phase := .csAbsorb }

theorem csInitEffect_eq (v : Variant) (s : State) :
    csInitEffect v s = if s.lena = 0#64 ∧ s.lenb = 0#64 then shakeStarted v s else advance (csInitIssued v s) := rfl

/-- What ABSORB puts before advance() (42_sponge_cshake.md R515). -/
def absorbIssued (s : State) : State :=
  { s with
    phase := if s.phase = .kmKeyed then .kmAbsorb else s.phase
    pend := { op := .absorb, seg := .one, rem1 := s.lena, rem2 := 0#64, a := s.lena, b := s.lenb } }

theorem absorbIssued_active (s : State) : (absorbIssued s).pend.op ≠ .idle := by
  show PendOp.absorb ≠ .idle
  decide

theorem exec_absorb_of_ready {s : State} (hs : Ready s)
    (hp : s.phase = .csAbsorb ∨ s.phase = .kmKeyed ∨ s.phase = .kmAbsorb) :
    exec .absorb s = .next (advance (absorbIssued s)) :=
  exec_of_ready hs nofun (by simpa [phaseAllowed, or_assoc] using hp) rfl rfl

/-- What KMAC_INIT puts before advance() (43_kmac.md R550). -/
def kmacInitIssued (v : Variant) (s : State) : State :=
  { snapClear s with
    phase := .idle
    sponge := absorb { spongeClear v with ds := 0x04#8 } (kmacPrefix (rateOf v) s.lenb)
    pend := { op := .kmacInit, seg := .one, rem1 := s.lenb, rem2 := s.lena, a := s.lena, b := s.lenb } }

theorem kmacInitIssued_active (v : Variant) (s : State) : (kmacInitIssued v s).pend.op ≠ .idle := by
  show PendOp.kmacInit ≠ .idle
  decide

theorem kmacInitEffect_eq (v : Variant) (s : State) : kmacInitEffect v s = advance (kmacInitIssued v s) := rfl

/-- Segment 1 of KMAC_INIT ends: pad_std closes the block, and left_encode(R) and left_encode(8a) are absorbed
(43_kmac.md R552). -/
theorem kmacInitIssued_end1 (v : Variant) (s : State) :
    endOfSegment1 (kmacInitIssued v s) = { kmacInitIssued v s with
      sponge := absorb (padStd (kmacInitIssued v s).sponge) (ratePrefix (rateOf v) ++ leftEncode (8 * s.lena)) } := by
  have hrate : (kmacInitIssued v s).sponge.rate = rateOf v := absorb_rate _ _
  show kmacInitEnd1 (kmacInitIssued v s) = _
  rw [kmacInitEnd1, onSponge, hrate]
  rfl

theorem endOfSegment2_of_kmacInit {s : State} (h : s.pend.op = .kmacInit) : endOfSegment2 s = kmacInitEnd2 s := by
  simp [endOfSegment2, h]

/-- The end of KMAC_INIT field by field (43_kmac.md R556). -/
theorem kmacInitEnd2_eq (s : State) :
    kmacInitEnd2 s = { s with
      sponge := keypad s.build.keypadOnBoundary s.sponge
      snap := if s.build.resettable then snapshotOf (keypad s.build.keypadOnBoundary s.sponge) else s.snap
      snapValid := s.build.resettable || s.snapValid
      phase := .kmKeyed } := by
  unfold kmacInitEnd2 takeSnapshot
  rw [onSponge_build]
  cases s.build.resettable <;> rfl

end Sys2Proof.Proofs.CommandEffects

namespace Sys2Proof.Proofs
open Sys2Proof.Machine Sys2Proof.Laws CommandEffects

/-- Settles O24: with both lengths 0 no stream is issued. -/
theorem csInitStartsShake : Obligations.CsInitStartsShake := by
  intro v s hs ha hb
  have hx : exec (.csInit v) s = .next (csInitEffect v s) :=
    exec_init_of_ready (.inl rfl) hs (by rw [ha]; decide) (by rw [hb]; decide)
  rw [hx, csInitEffect_eq, if_pos ⟨ha, hb⟩, ← rateOf_eq_ite]
  rfl

/-- Settles O25: advance() leaves the stream at segment 1, or at segment 2 where N is empty. -/
theorem csInitIssuesItsStream : Obligations.CsInitIssuesItsStream := by
  intro v s hs ha hb hne
  dsimp only
  have hx : exec (.csInit v) s = .next (csInitEffect v s) := exec_init_of_ready (.inl rfl) hs ha hb
  rw [hx, csInitEffect_eq, if_neg hne, ← rateOf_eq_ite, ← ratePrefix_rateOf]
  by_cases h1 : s.lena = 0#64
  · have h2 : s.lenb ≠ 0#64 := fun h2 => hne ⟨h1, h2⟩
    rw [if_pos h1, if_pos h1, absorb_append, advance_end1 (csInitIssued_active v s) rfl h1 h2]
    rfl
  · rw [if_neg h1, if_neg h1, advance_one_due rfl h1]
    rfl

/-- Settles O26: an empty message ends with its command. -/
theorem absorbIssuesItsStream : Obligations.AbsorbIssuesItsStream := by
  intro s hs hp
  rw [exec_absorb_of_ready hs hp]
  by_cases h1 : s.lena = 0#64
  · rw [if_pos h1, if_pos h1, advance_end12 (absorbIssued_active s) rfl h1 rfl]
    rfl
  · rw [if_neg h1, if_neg h1, advance_one_due rfl h1]
    rfl

/-- Settles O27: CS_FINAL is allowed in CS_ABSORB, and its effect is final_pad. -/
theorem csFinalOpensTheSqueeze : Obligations.CsFinalOpensTheSqueeze := by
  intro s hs hp
  exact exec_of_ready hs nofun (by simp [phaseAllowed, hp]) rfl rfl

/-- Settles O28: advance() ends no segment, the empty segment 1, or both empty segments. -/
theorem kmacInitIssuesItsStream : Obligations.KmacInitIssuesItsStream := by
  intro v s hs ha hb
  dsimp only
  have hx : exec (.kmacInit v) s = .next (kmacInitEffect v s) := exec_init_of_ready (.inr rfl) hs ha hb
  rw [hx, kmacInitEffect_eq, ← rateOf_eq_ite, ← kmacPrefix_rateOf, ← ratePrefix_rateOf]
  refine ⟨fun h1 => ?_, fun h1 h2 => ?_, fun h1 h2 => ?_⟩
  · rw [advance_one_due rfl h1]
    rfl
  · rw [advance_end1 (kmacInitIssued_active v s) rfl h1 h2, kmacInitIssued_end1, kmacInitIssued, h1]
    rfl
  · rw [advance_end12 (kmacInitIssued_active v s) rfl h1 h2, endOfSegment2_of_kmacInit rfl, kmacInitEnd2_eq,
      kmacInitIssued_end1, kmacInitIssued, h1, h2]
    dsimp only [snapClear]
    rw [Bool.or_false]
    rfl

end Sys2Proof.Proofs
end

section
/-! PROOF. A stream byte by byte (42_sponge_cshake.md R509, R520): how many bytes are due, when the command completes,
and what S has absorbed by then. -/

namespace Sys2Proof.Proofs.StreamBytes
open Sys2Proof.Machine Sys2Proof.Laws Invariant Snapshot

/-! advance() and the bytes due -/

/-- The phase in which a command's stream leaves the block (42_sponge_cshake.md R513, 43_kmac.md R556). -/
def completedPhase (op : PendOp) (p : Phase) : Phase :=
  match op with
  | .csInit => .csAbsorb
  | .kmacInit => .kmKeyed
  | .absorb => p
  | .idle => p

theorem endOfSegment2_phase (s : State) : (endOfSegment2 s).phase = completedPhase s.pend.op s.phase := by
  unfold endOfSegment2 completedPhase
  cases s.pend.op <;> rfl

/-- A pending stream, perhaps with its segment at its end: what advance() is called on. -/
structure Issued (s : State) : Prop where
  active : s.pend.op ≠ .idle
  seg_two : s.pend.seg = .two → s.pend.rem1 = 0#64

/-- A pending stream whose segment has a byte due: what advance() leaves and DIN finds. -/
structure Receiving (s : State) : Prop where
  active : s.pend.op ≠ .idle
  one_due : s.pend.seg = .one → s.pend.rem1 ≠ 0#64
  two_due : s.pend.seg = .two → s.pend.rem1 = 0#64 ∧ s.pend.rem2 ≠ 0#64

theorem receiving_of_inv {s : State} (h : s.Inv) (ha : s.pend.op ≠ .idle) : Receiving s :=
  ⟨ha, h.seg_one_due ha, h.seg_two_due ha⟩

theorem toNat_pos_of_ne_zero {n : U64} (h : n ≠ 0#64) : 0 < n.toNat := by
  rwa [Nat.pos_iff_ne_zero, Ne, ← BitVec.toNat_inj] at *

theorem Receiving.bytesDue_pos {s : State} (h : Receiving s) : 0 < s.bytesDue := by
  unfold State.bytesDue
  cases hs : s.pend.seg with
  | one => have := toNat_pos_of_ne_zero (h.one_due hs); omega
  | two => have := toNat_pos_of_ne_zero (h.two_due hs).2; omega

/-- advance() ends no stream that has a byte due. -/
theorem Issued.advance_due {s : State} (h : Issued s) (hd : 0 < s.bytesDue) :
    Receiving (advance s) ∧ (advance s).bytesDue = s.bytesDue ∧ (advance s).pend.op = s.pend.op ∧
      (advance s).phase = s.phase := by
  unfold State.bytesDue at hd ⊢
  cases hs : s.pend.seg with
  | one =>
    by_cases h1 : s.pend.rem1 = 0#64
    · have h2 : s.pend.rem2 ≠ 0#64 := by rintro h2; simp [h1, h2] at hd
      rw [advance_end1 h.active hs h1 h2]
      exact ⟨⟨h.active, nofun, fun _ => ⟨h1, h2⟩⟩, rfl, rfl, endOfSegment1_phase s⟩
    · rw [advance_one_due hs h1]
      exact ⟨⟨h.active, fun _ => h1, by simp [hs]⟩, rfl, rfl, rfl⟩
  | two =>
    have h2 : s.pend.rem2 ≠ 0#64 := by rintro h2; simp [h.seg_two hs, h2] at hd
    rw [advance_two_due hs h2]
    exact ⟨⟨h.active, by simp [hs], fun _ => ⟨h.seg_two hs, h2⟩⟩, rfl, rfl, rfl⟩

/-- advance() completes the command whose stream has no byte due. -/
theorem Issued.advance_complete {s : State} (h : Issued s) (hd : s.bytesDue = 0) :
    (advance s).pend.op = .idle ∧ (advance s).bytesDue = 0 ∧
      (advance s).phase = completedPhase s.pend.op s.phase := by
  obtain ⟨h1, h2⟩ : s.pend.rem1 = 0#64 ∧ s.pend.rem2 = 0#64 := by
    simpa [State.bytesDue, BitVec.toNat_eq] using hd
  cases hs : s.pend.seg with
  | one =>
    rw [advance_end12 h.active hs h1 h2]
    exact ⟨rfl, hd, by simp [endOfSegment2_phase]⟩
  | two =>
    rw [advance_end2 h.active hs h2]
    exact ⟨rfl, hd, endOfSegment2_phase s⟩

/-! One byte -/

/-- A stream byte: S absorbs it and one byte fewer is due, before advance(). -/
def received (v : Byte) (s : State) : State :=
  { s with sponge := absorbByte s.sponge v, pend := countByte s.pend }

theorem consumeByte_eq (v : Byte) (s : State) : consumeByte v s = advance (received v s) := rfl

theorem countByte_one {P : Pending} (hs : P.seg = .one) : countByte P = { P with rem1 := P.rem1 - 1#64 } := by
  simp [countByte, hs]

theorem countByte_two {P : Pending} (hs : P.seg = .two) : countByte P = { P with rem2 := P.rem2 - 1#64 } := by
  simp [countByte, hs]

theorem toNat_sub_one {n : U64} (h : n ≠ 0#64) : (n - 1#64).toNat = n.toNat - 1 := by bv_omega

theorem Receiving.issued_received {s : State} (h : Receiving s) (v : Byte) :
    Issued (received v s) ∧ (received v s).bytesDue = s.bytesDue - 1 := by
  have hop : (received v s).pend.op ≠ .idle := by simpa [received, countByte_op] using h.active
  unfold received State.bytesDue at *
  dsimp only at *
  cases hs : s.pend.seg with
  | one =>
    have hpos := toNat_pos_of_ne_zero (h.one_due hs)
    rw [countByte_one hs] at hop ⊢
    exact ⟨⟨hop, by simp [hs]⟩, by simp only [toNat_sub_one (h.one_due hs)]; omega⟩
  | two =>
    obtain ⟨h1, h2⟩ := h.two_due hs
    have hpos := toNat_pos_of_ne_zero h2
    rw [countByte_two hs] at hop ⊢
    exact ⟨⟨hop, fun _ => h1⟩, by simp only [toNat_sub_one h2]; omega⟩

/-! Byte strings -/

theorem consumeBytes_cons_of_active {s : State} (h : s.pend.op ≠ .idle) (v : Byte) (B : List Byte) :
    consumeBytes (v :: B) s = consumeBytes B (consumeByte v s) := if_pos h

theorem consumeBytes_append (X Y : List Byte) (s : State) :
    consumeBytes (X ++ Y) s = consumeBytes Y (consumeBytes X s) := by
  induction X generalizing s with
  | nil => rfl
  | cons v X ih =>
    by_cases h : s.pend.op = .idle
    · rw [consumeBytes_of_idle h, consumeBytes_of_idle h, consumeBytes_of_idle h]
    · rw [List.cons_append, consumeBytes_cons_of_active h, consumeBytes_cons_of_active h, ih]

/-- Fewer bytes than are due leave the stream pending. -/
theorem Receiving.consumeBytes_due {s : State} (h : Receiving s) {B : List Byte} (hB : B.length < s.bytesDue) :
    Receiving (consumeBytes B s) ∧ (consumeBytes B s).bytesDue = s.bytesDue - B.length ∧
      (consumeBytes B s).pend.op = s.pend.op ∧ (consumeBytes B s).phase = s.phase := by
  induction B generalizing s with
  | nil => exact ⟨h, rfl, rfl, rfl⟩
  | cons v B ih =>
    rw [List.length_cons] at hB ⊢
    obtain ⟨hi, hdue⟩ := h.issued_received v
    obtain ⟨hr, hdue', hop, hph⟩ := hi.advance_due (by omega)
    obtain ⟨hr', hdue'', hop', hph'⟩ := ih hr (by omega)
    rw [consumeBytes_cons_of_active h.active, consumeByte_eq]
    exact ⟨hr', by omega, hop'.trans (hop.trans (countByte_op s.pend)), hph'.trans hph⟩

/-- The last byte due completes the command. -/
theorem Receiving.consumeBytes_complete {s : State} (h : Receiving s) {B : List Byte} (hB : s.bytesDue ≤ B.length) :
    (consumeBytes B s).pend.op = .idle ∧ (consumeBytes B s).bytesDue = 0 ∧
      (consumeBytes B s).phase = completedPhase s.pend.op s.phase := by
  induction B generalizing s with
  | nil => exact absurd hB (Nat.not_le.2 h.bytesDue_pos)
  | cons v B ih =>
    rw [List.length_cons] at hB
    obtain ⟨hi, hdue⟩ := h.issued_received v
    have hcop : (received v s).pend.op = s.pend.op := countByte_op s.pend
    rw [consumeBytes_cons_of_active h.active, consumeByte_eq]
    obtain hz | hpos := Nat.eq_zero_or_pos (received v s).bytesDue
    · obtain ⟨hop, hdue', hph⟩ := hi.advance_complete hz
      rw [consumeBytes_of_idle hop]
      exact ⟨hop, hdue', by rw [hph, hcop]; rfl⟩
    · obtain ⟨hr, hdue', hop, hph⟩ := hi.advance_due hpos
      obtain ⟨hop', hdue'', hph'⟩ := ih hr (by omega)
      exact ⟨hop', hdue'', by rw [hph', hop, hph, hcop]; rfl⟩

theorem Receiving.bytesDue_consumeBytes {s : State} (h : Receiving s) (B : List Byte) :
    (consumeBytes B s).bytesDue = s.bytesDue - B.length := by
  obtain hlt | hge := Nat.lt_or_ge B.length s.bytesDue
  · exact (h.consumeBytes_due hlt).2.1
  · rw [(h.consumeBytes_complete hge).2.1, Nat.sub_eq_zero_of_le hge]

/-- Bytes past the last one due are ignored (42_sponge_cshake.md R520). -/
theorem Receiving.consumeBytes_take {s : State} (h : Receiving s) (B : List Byte) :
    consumeBytes B s = consumeBytes (B.take s.bytesDue) s := by
  obtain hle | hlt := le_or_gt B.length s.bytesDue
  · rw [List.take_of_length_le hle]
  · have hidle := (h.consumeBytes_complete (B := B.take s.bytesDue) (by rw [List.length_take]; omega)).1
    conv_lhs => rw [← List.take_append_drop s.bytesDue B, consumeBytes_append, consumeBytes_of_idle hidle]

/-- Only SNAP, S, P and PHASE are a stream's (42_sponge_cshake.md R520). -/
theorem consumeBytes_frame (B : List Byte) (s : State) :
    { consumeBytes B s with
      sponge := s.sponge, snap := s.snap, snapValid := s.snapValid, pend := s.pend, phase := s.phase } = s := by
  cases s
  simp

/-! The bytes of one segment -/

/-- The bytes due in the segment being received. -/
def segDue (P : Pending) : Nat := (if P.seg = .one then P.rem1 else P.rem2).toNat

/-- n bytes fewer are due in the segment being received. -/
def countBytes (n : Nat) (P : Pending) : Pending :=
  match P.seg with
  | .one => { P with rem1 := P.rem1 - BitVec.ofNat 64 n }
  | .two => { P with rem2 := P.rem2 - BitVec.ofNat 64 n }

theorem countBytes_one {P : Pending} (hs : P.seg = .one) (n : Nat) :
    countBytes n P = { P with rem1 := P.rem1 - BitVec.ofNat 64 n } := by
  simp [countBytes, hs]

theorem countBytes_two {P : Pending} (hs : P.seg = .two) (n : Nat) :
    countBytes n P = { P with rem2 := P.rem2 - BitVec.ofNat 64 n } := by
  simp [countBytes, hs]

theorem countBytes_op (n : Nat) (P : Pending) : (countBytes n P).op = P.op := by
  unfold countBytes
  cases P.seg <;> rfl

theorem countBytes_zero (P : Pending) : countBytes 0 P = P := by
  cases hs : P.seg with
  | one => rw [countBytes_one hs, BitVec.sub_zero]
  | two => rw [countBytes_two hs, BitVec.sub_zero]

theorem sub_one_sub (r : U64) (n : Nat) : r - 1#64 - BitVec.ofNat 64 n = r - BitVec.ofNat 64 (n + 1) := by
  rw [Nat.add_comm, BitVec.ofNat_add, ← BitVec.sub_sub]

theorem countBytes_countByte (n : Nat) (P : Pending) : countBytes n (countByte P) = countBytes (n + 1) P := by
  cases hs : P.seg with
  | one =>
    have hs' : (countByte P).seg = .one := by rw [countByte_one hs, hs]
    rw [countBytes_one hs', countBytes_one hs, countByte_one hs, sub_one_sub]
  | two =>
    have hs' : (countByte P).seg = .two := by rw [countByte_two hs, hs]
    rw [countBytes_two hs', countBytes_two hs, countByte_two hs, sub_one_sub]

theorem segDue_countBytes {P : Pending} {n : Nat} (h : n ≤ segDue P) : segDue (countBytes n P) = segDue P - n := by
  cases hs : P.seg with
  | one =>
    simp only [segDue, countBytes_one hs, hs, if_true] at h ⊢
    bv_omega
  | two =>
    simp only [segDue, countBytes_two hs, hs, reduceCtorEq, if_false] at h ⊢
    bv_omega

/-- S has absorbed the bytes B of the segment being received, before advance(). -/
def delivered (B : List Byte) (s : State) : State :=
  { s with sponge := absorb s.sponge B, pend := countBytes B.length s.pend }

theorem delivered_nil (s : State) : delivered [] s = s := by
  simp only [delivered, absorb_nil, List.length_nil, countBytes_zero]

theorem delivered_received (v : Byte) (B : List Byte) (s : State) :
    delivered B (received v s) = delivered (v :: B) s := by
  simp only [delivered, received, countBytes_countByte, List.length_cons, absorb_cons]

theorem advance_of_segDue {s : State} (h : 0 < segDue s.pend) : advance s = s := by
  cases hs : s.pend.seg with
  | one => exact advance_one_due hs fun h1 => by simp [segDue, hs, h1] at h
  | two => exact advance_two_due hs fun h2 => by simp [segDue, hs, h2] at h

/-- Bytes that the segment has due go into S; advance() follows the last. -/
theorem consumeBytes_advance {s : State} {B : List Byte} (ha : s.pend.op ≠ .idle) (hB : B.length ≤ segDue s.pend) :
    consumeBytes B (advance s) = advance (delivered B s) := by
  induction B generalizing s with
  | nil => rw [delivered_nil]; rfl
  | cons v B ih =>
    rw [List.length_cons] at hB
    have hone : segDue (received v s).pend = segDue s.pend - 1 := by
      have h := segDue_countBytes (P := s.pend) (n := 1) (by omega)
      rwa [← countBytes_countByte, countBytes_zero] at h
    have hop : (received v s).pend.op ≠ .idle := by rwa [received, countByte_op]
    rw [advance_of_segDue (by omega), consumeBytes_cons_of_active ha, consumeByte_eq, ih hop (by omega),
      delivered_received]

theorem consumeBytes_of_due {s : State} {B : List Byte} (ha : s.pend.op ≠ .idle) (hd : 0 < segDue s.pend)
    (hB : B.length ≤ segDue s.pend) : consumeBytes B s = advance (delivered B s) := by
  rw [← consumeBytes_advance ha hB, advance_of_segDue hd]

/-- Where the segment goes on, S absorbs the bytes and advance() does nothing. -/
theorem consumeBytes_within {s : State} {B : List Byte} (ha : s.pend.op ≠ .idle) (hB : B.length < segDue s.pend) :
    consumeBytes B s = delivered B s := by
  have hdue : 0 < segDue (delivered B s).pend := by rw [delivered, segDue_countBytes hB.le]; omega
  rw [consumeBytes_of_due ha (by omega) hB.le, advance_of_segDue hdue]

/-- The end of a message leaves S as it is. -/
theorem advance_sponge_of_absorb {s : State} (h : s.pend.op = .absorb) : (advance s).sponge = s.sponge := by
  obtain e | ⟨_, _, _, _, e⟩ | ⟨_, _, _, e⟩ | ⟨_, _, _, _, e⟩ := advance_cases s
  all_goals rw [e]
  all_goals simp [endOfSegment1, endOfSegment2, h]

/-! A whole stream -/

/-- S has absorbed the whole of segment 1. -/
def withSegment1 (X : List Byte) (s : State) : State :=
  { s with sponge := absorb s.sponge X, pend := { s.pend with rem1 := 0#64 } }

/-- S has absorbed the whole of segment 2. -/
def withSegment2 (Y : List Byte) (s : State) : State :=
  { s with sponge := absorb s.sponge Y, pend := { s.pend with rem2 := 0#64 } }

theorem delivered_segment1 {s : State} {X : List Byte} (hs : s.pend.seg = .one) (hX : X.length = s.pend.rem1.toNat) :
    delivered X s = withSegment1 X s := by
  rw [delivered, countBytes_one hs, hX, BitVec.ofNat_toNat, BitVec.setWidth_eq, BitVec.sub_self, withSegment1]

theorem delivered_segment2 {s : State} {Y : List Byte} (hs : s.pend.seg = .two) (hY : Y.length = s.pend.rem2.toNat) :
    delivered Y s = withSegment2 Y s := by
  rw [delivered, countBytes_two hs, hY, BitVec.ofNat_toNat, BitVec.setWidth_eq, BitVec.sub_self, withSegment2]

/-- Segment 1 has ended. -/
def afterSegment1 (s : State) : State := { endOfSegment1 s with pend := { s.pend with seg := .two } }

/-- Segment 2 has ended, and the command with it. -/
def afterSegment2 (s : State) : State := { endOfSegment2 s with pend := { s.pend with op := .idle } }

/-- advance() at the end of segment 1 goes on as at the start of segment 2. -/
theorem advance_of_end1 {s : State} (ha : s.pend.op ≠ .idle) (hs : s.pend.seg = .one) (h1 : s.pend.rem1 = 0#64) :
    advance s = advance (afterSegment1 s) := by
  simp [advance, advance1, afterSegment1, ha, hs, h1]

/-- Exactly the bytes of segment 1, maybe none, end it. -/
theorem consumeBytes_segment1 {s : State} {X : List Byte} (ha : s.pend.op ≠ .idle) (hs : s.pend.seg = .one)
    (hX : X.length = s.pend.rem1.toNat) : consumeBytes X (advance s) = advance (afterSegment1 (withSegment1 X s)) := by
  rw [consumeBytes_advance ha (by rw [segDue, if_pos hs, hX]), delivered_segment1 hs hX,
    advance_of_end1 (s := withSegment1 X s) ha hs rfl]

/-- Exactly the bytes of segment 2, maybe none, complete the command. -/
theorem consumeBytes_segment2 {s : State} {Y : List Byte} (ha : s.pend.op ≠ .idle) (hs : s.pend.seg = .two)
    (hY : Y.length = s.pend.rem2.toNat) : consumeBytes Y (advance s) = afterSegment2 (withSegment2 Y s) := by
  rw [consumeBytes_advance ha (by rw [segDue, if_neg (by rw [hs]; nofun), hY]), delivered_segment2 hs hY,
    advance_end2 (s := withSegment2 Y s) ha hs rfl, afterSegment2]

/-- Exactly the bytes of both segments complete the command that issued them. -/
theorem consumeBytes_stream {s : State} {X Y : List Byte} (ha : s.pend.op ≠ .idle) (hs : s.pend.seg = .one)
    (hX : X.length = s.pend.rem1.toNat) (hY : Y.length = s.pend.rem2.toNat) :
    consumeBytes (X ++ Y) (advance s) = afterSegment2 (withSegment2 Y (afterSegment1 (withSegment1 X s))) := by
  rw [consumeBytes_append, consumeBytes_segment1 ha hs hX]
  exact consumeBytes_segment2 ha rfl hY

/-! DIN words -/

theorem wordBytes_take_congr {w w' : Word} {n : Nat} (h : ∀ k, k < min 4 n → wordByte w' k = wordByte w k) :
    (wordBytes w').take n = (wordBytes w).take n := by
  have hmap : ∀ v, wordBytes v = (List.range 4).map (wordByte v) := fun _ => rfl
  rw [hmap, hmap, ← List.map_take, ← List.map_take, List.take_range]
  exact List.map_congr_left fun k hk => h k (by rw [Nat.min_comm]; exact List.mem_range.1 hk)

theorem writeReg_din_of_pending {s : State} (he : s.err.err = false) (ha : s.pend.op ≠ .idle) (w : Word) :
    writeReg .din w s = .next (consumeBytes (wordBytes w) s) := by
  obtain ⟨he', _⟩ | ⟨_, _, e⟩ | ⟨_, hop, _⟩ := writeDin_cases w s
  · exact absurd (he.symm.trans he') nofun
  · exact congrArg _ e
  · exact absurd hop ha

/-- A message is absorbed as far as it is due. -/
theorem consumeBytes_sponge_of_absorb {s : State} (hinv : s.Inv) (h : s.pend.op = .absorb) (B : List Byte) :
    (consumeBytes B s).sponge = absorb s.sponge (B.take s.bytesDue) := by
  have ha : s.pend.op ≠ .idle := by simp [h]
  have hr := receiving_of_inv hinv ha
  obtain ⟨_, hs, h2⟩ := hinv.absorb_pending h
  have hdue : segDue s.pend = s.bytesDue := by simp [segDue, State.bytesDue, hs, h2]
  rw [hr.consumeBytes_take,
    consumeBytes_of_due ha (hdue ▸ hr.bytesDue_pos) (by rw [hdue, List.length_take]; omega),
    advance_sponge_of_absorb ((countBytes_op _ _).trans h)]
  rfl

end Sys2Proof.Proofs.StreamBytes

namespace Sys2Proof.Proofs
open Sys2Proof.Machine Sys2Proof.Laws StreamBytes

/-- Settles O37: the word's bytes that are due are received one by one, the others are ignored. -/
theorem dinCountsAndCompletes : Obligations.DinCountsAndCompletes := by
  intro w s hinv he ha
  have hr := receiving_of_inv hinv ha
  have hlen : (wordBytes w).length = 4 := rfl
  refine ⟨_, writeReg_din_of_pending he ha w, ?_⟩
  rw [← and_assoc, ← and_assoc, ← and_assoc]
  refine ⟨?_, consumeBytes_frame _ s, fun hdue => ?_, fun h => consumeBytes_sponge_of_absorb hinv h _,
    fun w' hw => ?_⟩
  · obtain hlt | hge := Nat.lt_or_ge 4 s.bytesDue
    · obtain ⟨hr', hdue, hop, hph⟩ := hr.consumeBytes_due (B := wordBytes w) hlt
      exact ⟨⟨⟨hdue, iff_of_true hr'.active hlt⟩, fun _ => ⟨hop, hph⟩⟩, fun hidle => absurd hidle hr'.active⟩
    · obtain ⟨hidle, hdue, hph⟩ := hr.consumeBytes_complete (B := wordBytes w) hge
      exact ⟨⟨⟨by omega, iff_of_false (not_not.2 hidle) (by omega)⟩, fun hop => absurd hidle hop⟩, fun _ => hph⟩
  · rw [consumeBytes_within (B := wordBytes w) ha hdue]
    rfl
  · rw [writeReg_din_of_pending he ha, hr.consumeBytes_take, wordBytes_take_congr hw, ← hr.consumeBytes_take]

end Sys2Proof.Proofs
end

section
/-! PROOF. Reads of DOUT (42_sponge_cshake.md R524, R525; 20_memory.md R204). -/

namespace Sys2Proof.Proofs.DoutWords
open Sys2Proof.Machine Sys2Proof.Laws

/-- A packed word as a number: its bytes, first byte lowest (20_memory.md R204). -/
theorem packWord_toNat (b0 b1 b2 b3 : Byte) :
    (packWord [b0, b1, b2, b3]).toNat =
      b0.toNat + 2 ^ 8 * b1.toNat + 2 ^ 16 * b2.toNat + 2 ^ 24 * b3.toNat := by
  show (b3 ++ b2 ++ b1 ++ b0).toNat = _
  have happend {m : Nat} (x : BitVec m) (y : Byte) : (x ++ y).toNat = 2 ^ 8 * x.toNat + y.toNat := by
    rw [BitVec.toNat_append, ← Nat.shiftLeft_add_eq_or_of_lt y.isLt, Nat.shiftLeft_eq, Nat.mul_comm]
  rw [happend, happend, happend]
  ring

theorem readDout_of_squeezing {s : State} (he : s.err.err = false) (hp : s.phase = .csSqueeze ∨ s.phase = .kmSqueeze) :
    readDout s = (packWord (squeezeBytes 4 s.sponge).1, { s with sponge := (squeezeBytes 4 s.sponge).2 }) := by
  have hq : squeezing s.phase = true := by simpa [squeezing] using hp
  obtain ⟨he', _⟩ | ⟨_, _, e⟩ | ⟨_, hq', _⟩ := readDout_cases s
  · exact absurd (he.symm.trans he') nofun
  · exact e
  · exact absurd (hq.symm.trans hq') nofun

end Sys2Proof.Proofs.DoutWords

namespace Sys2Proof.Proofs
open Sys2Proof.Machine Sys2Proof.Laws DoutWords

/-- Settles O50: in a squeeze phase the word packs four output bytes; elsewhere the read is halted or latches. -/
theorem doutReads : Obligations.DoutReads := by
  refine ⟨fun s he hp => ?_, fun s h1 h2 => ?_⟩
  · show (readDout s).1.toNat = _ ∧ (readDout s).2 = _
    rw [readDout_of_squeezing he hp]
    exact ⟨packWord_toNat .., rfl⟩
  · show readDout s = _
    obtain ⟨he, e⟩ | ⟨_, hq, _⟩ | ⟨he, _, e⟩ := readDout_cases s
    · rw [e, if_pos he]
    · simp [squeezing, h1, h2] at hq
    · rw [e, if_neg (by simp [he])]
      rfl

end Sys2Proof.Proofs
end

section
/-! PROOF. Runs of host accesses (20_memory.md R215): what an access does it does whatever is to come and whatever was
observed before, so runs compose. -/

namespace Sys2Proof.Proofs.Accesses
open Sys2Proof Sys2Proof.Machine Sys2Proof.Laws CommandEffects StreamBytes DoutWords

/-! The model's own lists have no part in a register access (logs 1, 3). -/

/-- The state with other events to come and other observations made. -/
def withLists (es : List HostEvent) (o : List Observation) (s : State) : State := { s with inputs := es, observed := o }

section
variable (es : List HostEvent) (o : List Observation)

theorem endOfSegment1_withLists (s : State) :
    endOfSegment1 (withLists es o s) = withLists es o (endOfSegment1 s) := by
  unfold endOfSegment1
  rw [show (withLists es o s).pend = s.pend from rfl]
  cases s.pend.op <;> rfl

theorem takeSnapshot_withLists (s : State) : takeSnapshot (withLists es o s) = withLists es o (takeSnapshot s) := by
  unfold takeSnapshot
  rw [apply_ite (withLists es o)]
  rfl

theorem kmacInitEnd2_withLists (s : State) : kmacInitEnd2 (withLists es o s) = withLists es o (kmacInitEnd2 s) :=
  congrArg (fun t : State => { t with phase := .kmKeyed })
    (takeSnapshot_withLists es o (onSponge (keypad s.build.keypadOnBoundary) s))

theorem endOfSegment2_withLists (s : State) :
    endOfSegment2 (withLists es o s) = withLists es o (endOfSegment2 s) := by
  unfold endOfSegment2
  rw [show (withLists es o s).pend = s.pend from rfl]
  cases s.pend.op with
  | kmacInit => exact kmacInitEnd2_withLists es o s
  | _ => rfl

theorem advance_withLists (s : State) : advance (withLists es o s) = withLists es o (advance s) := by
  have h1 : advance1 (withLists es o s) = withLists es o (advance1 s) := by
    unfold advance1
    rw [apply_ite (withLists es o), endOfSegment1_withLists]
    rfl
  have h2 (t : State) : advance2 (withLists es o t) = withLists es o (advance2 t) := by
    unfold advance2
    rw [apply_ite (withLists es o), endOfSegment2_withLists]
    rfl
  rw [advance, h1, h2, advance]

theorem consumeBytes_withLists (B : List Byte) (s : State) :
    consumeBytes B (withLists es o s) = withLists es o (consumeBytes B s) := by
  induction B generalizing s with
  | nil => rfl
  | cons v B ih =>
    have hbyte : consumeByte v (withLists es o s) = withLists es o (consumeByte v s) :=
      advance_withLists es o (received v s)
    unfold consumeBytes
    rw [hbyte, ih, apply_ite (withLists es o)]
    rfl

theorem writeDin_withLists (w : Word) (s : State) :
    writeDin w (withLists es o s) = withLists es o (writeDin w s) := by
  unfold writeDin
  rw [consumeBytes_withLists, apply_ite (withLists es o), apply_ite (withLists es o)]
  rfl

theorem effect_withLists (i : Instr) (s : State) : effect i (withLists es o s) = withLists es o (effect i s) := by
  cases i with
  | csInit v =>
    show csInitEffect v (withLists es o s) = withLists es o (csInitEffect v s)
    rw [csInitEffect_eq, csInitEffect_eq, apply_ite (withLists es o), ← advance_withLists]
    rfl
  | absorb => exact advance_withLists es o (absorbIssued s)
  | kmacInit v => exact advance_withLists es o (kmacInitIssued v s)
  | _ => rfl

theorem exec_withLists {i : Instr} {s t : State} (h : exec i s = .next t) :
    exec i (withLists es o s) = .next (withLists es o t) := by
  by_cases hi : i = .softReset
  · subst hi
    obtain rfl := Host.Outcome.next.inj h
    rfl
  rw [exec_eq_checked hi] at h ⊢
  obtain ⟨he, e⟩ | ⟨c, he, hf, e⟩ | ⟨he, hf, e⟩ := checked_cases i (effect i) s
  all_goals obtain rfl := Host.Outcome.next.inj (e.symm.trans h)
  · exact checked_halted he
  · exact checked_raises he hf
  · rw [← effect_withLists]
    exact checked_performs he hf

theorem writeCmd_withLists {w : Word} {s t : State} (h : writeCmd w s = .next t) :
    writeCmd w (withLists es o s) = .next (withLists es o t) := by
  unfold writeCmd at h ⊢
  cases hd : decode w with
  | ok i =>
    simp only [hd] at h ⊢
    exact exec_withLists es o h
  | error e =>
    simp only [hd] at h ⊢
    by_cases he : s.err.err = true
    · rw [if_pos he] at h
      obtain rfl := Host.Outcome.next.inj h
      exact if_pos he
    · rw [if_neg he] at h
      obtain rfl := Host.Outcome.next.inj h
      exact if_neg he

theorem writeReg_withLists {r : Reg} {w : Word} {s t : State} (h : writeReg r w s = .next t) :
    writeReg r w (withLists es o s) = .next (withLists es o t) := by
  cases r with
  | cmd => exact writeCmd_withLists es o h
  | din =>
    obtain rfl := Host.Outcome.next.inj h
    exact congrArg _ (writeDin_withLists es o w s)
  | _ =>
    obtain rfl := Host.Outcome.next.inj h
    rfl

end

/-! Runs -/

/-- From s the accesses es lead to u and return the words ws, whatever comes after them and was observed before. -/
def Leads (es : List HostEvent) (s u : State) (ws : List Word) : Prop :=
  ∃ obs, readWords obs = ws ∧ ∀ (k : Nat) (rest : List HostEvent) (o : List Observation),
    Host.Core.run Sys2Proof.core (es.length + k) (withLists (es ++ rest) o s) =
      Host.Core.run Sys2Proof.core k (withLists rest (o ++ obs) u)

theorem readWords_append (o1 o2 : List Observation) : readWords (o1 ++ o2) = readWords o1 ++ readWords o2 := by
  induction o1 with
  | nil => rfl
  | cons x o1 ih => cases x <;> simp [readWords, ih]

theorem Leads.nil (s : State) : Leads [] s s [] :=
  ⟨[], rfl, fun k rest o => by rw [List.length_nil, Nat.zero_add, List.append_nil]; rfl⟩

theorem Leads.append {es1 es2 : List HostEvent} {s t u : State} {ws1 ws2 : List Word} (h1 : Leads es1 s t ws1)
    (h2 : Leads es2 t u ws2) : Leads (es1 ++ es2) s u (ws1 ++ ws2) := by
  obtain ⟨o1, hw1, hr1⟩ := h1
  obtain ⟨o2, hw2, hr2⟩ := h2
  refine ⟨o1 ++ o2, by rw [readWords_append, hw1, hw2], fun k rest o => ?_⟩
  rw [List.length_append, Nat.add_assoc, List.append_assoc, hr1, hr2, List.append_assoc]

theorem Leads.runInputs {es : List HostEvent} {s u : State} {ws : List Word} (h : Leads es s u ws) :
    ∃ obs, readWords obs = ws ∧ runInputs es s = .next (withLists [] (s.observed ++ obs) u) := by
  obtain ⟨obs, hw, hr⟩ := h
  have h0 := hr 0 [] s.observed
  rw [List.append_nil] at h0
  exact ⟨obs, hw, h0⟩

theorem core_run_succ (M : Host.Core) {s t : M.State} (h : M.step s = .next t) (k : Nat) :
    M.run (k + 1) s = M.run k t := by
  rw [Host.Core.run, h]

theorem run_succ {s t : State} (h : step s = .next t) (k : Nat) :
    Host.Core.run Sys2Proof.core (1 + k) s = Host.Core.run Sys2Proof.core k t := by
  rw [Nat.add_comm]
  exact core_run_succ Sys2Proof.core h k

theorem leads_write {r : Reg} {v : Word} {s u : State} (hr : s.rst = false) (hw : writeReg r v s = .next u) :
    Leads [writeEvent s.build.kccBase r v] s u [] := by
  refine ⟨[.wrote (irq u)], rfl, fun k rest o => run_succ ?_ k⟩
  have hsel : selectReg s.build.kccBase (regAddr s.build.kccBase r) = r := selectReg_regAddr _ r
  refine step_write (s := withLists (writeEvent s.build.kccBase r v :: rest) o s) (u := withLists rest o u)
    (rest := rest) rfl hr ?_
  show writeReg (selectReg s.build.kccBase (regAddr s.build.kccBase r)) v (withLists rest o s) = _
  rw [hsel]
  exact writeReg_withLists rest o hw

theorem leads_read {r : Reg} {w : Word} {s u : State} (hr : s.rst = false)
    (hread : ∀ es o, readReg r (withLists es o s) = (w, withLists es o u)) :
    Leads [readEvent s.build.kccBase r] s u [w] := by
  refine ⟨[.returned w (irq u)], rfl, fun k rest o => run_succ ?_ k⟩
  have hval : readReg (selectReg s.build.kccBase (regAddr s.build.kccBase r)) (withLists rest o s) =
      (w, withLists rest o u) := by rw [selectReg_regAddr, hread]
  exact (step_read (s := withLists (readEvent s.build.kccBase r :: rest) o s) rfl hr).trans
    (congrArg (fun p => Host.Outcome.next (observe (.returned p.1 (irq p.2)) p.2)) hval)

theorem leads_cmd {i : Instr} {s u : State} (hr : s.rst = false) (hx : exec i s = .next u) :
    Leads [cmdEvent s.build.kccBase i] s u [] :=
  leads_write hr ((writeReg_cmd_of_decode (CommandWords.decode_encode i) s).trans hx)

/-! SETA and SETB (30_encoding.md R313) -/

/-- LENA holds n. -/
def withLena (n : U64) (s : State) : State :=
  { s with lenaLo := n.extractLsb' 0 32, lenaHi := n.extractLsb' 32 32 }

/-- LENB holds n. -/
def withLenb (n : U64) (s : State) : State :=
  { s with lenbLo := n.extractLsb' 0 32, lenbHi := n.extractLsb' 32 32 }

theorem append_halves (n : U64) : n.extractLsb' 32 32 ++ n.extractLsb' 0 32 = n := by
  apply BitVec.eq_of_getLsbD_eq
  intro k hk
  simp only [BitVec.getLsbD_append, BitVec.getLsbD_extractLsb']
  grind

theorem lena_withLena (n : U64) (s : State) : (withLena n s).lena = n := append_halves n
theorem lenb_withLenb (n : U64) (s : State) : (withLenb n s).lenb = n := append_halves n

theorem leads_setA {s : State} (hr : s.rst = false) (n : U64) : Leads (setA s.build.kccBase n) s (withLena n s) [] :=
  (leads_write (r := .lenaLo) hr rfl).append
    (leads_write (s := { s with lenaLo := n.extractLsb' 0 32 }) (r := .lenaHi) hr rfl)

theorem leads_setB {s : State} (hr : s.rst = false) (n : U64) : Leads (setB s.build.kccBase n) s (withLenb n s) [] :=
  (leads_write (r := .lenbLo) hr rfl).append
    (leads_write (s := { s with lenbLo := n.extractLsb' 0 32 }) (r := .lenbHi) hr rfl)

theorem lengthOperand_toNat {B : List Byte} (h : B.length < 2 ^ 64) : (lengthOperand B).toNat = B.length := by
  rw [lengthOperand, BitVec.toNat_ofNat, Nat.mod_eq_of_lt h]

/-! FEED -/

/-- A packed word gives its bytes back, and zeros after them (30_encoding.md R313). -/
theorem wordBytes_packWord (B : List Byte) : wordBytes (packWord B) = (List.range 4).map (B.getD · 0#8) := by
  have hmap : wordBytes (packWord B) = (List.range 4).map (wordByte (packWord B)) := rfl
  rw [hmap]
  exact List.map_congr_left fun k hk => EncoderRegisters.wordByte_packWord B (List.mem_range.1 hk)

theorem take_wordBytes_packWord {B : List Byte} (h : B.length ≤ 4) : (wordBytes (packWord B)).take B.length = B := by
  rw [wordBytes_packWord]
  refine List.ext_getElem (by simpa using h) fun k hk hk' => ?_
  simp [hk']

/-- The bytes of the word that go past the stream are ignored. -/
theorem consumeBytes_packWord {s : State} (h : Receiving s) {B : List Byte} (hB : B.length = s.bytesDue)
    (h4 : B.length ≤ 4) : consumeBytes (wordBytes (packWord B)) s = consumeBytes B s := by
  rw [h.consumeBytes_take, ← hB, take_wordBytes_packWord h4]

theorem leads_din {s : State} (he : s.err.err = false) (hr : s.rst = false) (ha : s.pend.op ≠ .idle) (w : Word) :
    Leads [writeEvent s.build.kccBase .din w] s (consumeBytes (wordBytes w) s) [] :=
  leads_write hr (writeReg_din_of_pending he ha w)

theorem packWords_short {b0 : Byte} {rest : List Byte} (h : rest.length < 3) :
    packWords (b0 :: rest) = [packWord (b0 :: rest)] := by
  match rest, h with
  | [], _ => rfl
  | [_], _ => rfl
  | [_, _], _ => rfl

/-- FEED of exactly the bytes due delivers them all. -/
theorem leads_feed (B : List Byte) {s : State} (he : s.err.err = false) (hr : s.rst = false)
    (hB : B.length = s.bytesDue) (hs : B ≠ [] → Receiving s) :
    Leads (feed s.build.kccBase B) s (consumeBytes B s) [] := by
  induction B using packWords.induct generalizing s with
  | case1 => exact Leads.nil s
  | case2 b0 b1 b2 b3 rest ih =>
    have hs := hs nofun
    have hword : wordBytes (packWord [b0, b1, b2, b3]) = [b0, b1, b2, b3] := wordBytes_packWord _
    have hfirst := leads_din he hr hs.active (packWord [b0, b1, b2, b3])
    rw [hword] at hfirst
    have hsplit : consumeBytes (b0 :: b1 :: b2 :: b3 :: rest) s = consumeBytes rest (consumeBytes [b0, b1, b2, b3] s) :=
      consumeBytes_append [b0, b1, b2, b3] rest s
    have hlen : rest.length + 4 = s.bytesDue := hB
    have hdue : rest.length = (consumeBytes [b0, b1, b2, b3] s).bytesDue := by
      rw [hs.bytesDue_consumeBytes, ← hlen]
      rfl
    have hgoes (hne : rest ≠ []) : Receiving (consumeBytes [b0, b1, b2, b3] s) := by
      have hpos := List.length_pos_of_ne_nil hne
      have hlt : [b0, b1, b2, b3].length < s.bytesDue := by simp only [List.length_cons, List.length_nil]; omega
      exact (hs.consumeBytes_due hlt).1
    have hrest := ih (s := consumeBytes [b0, b1, b2, b3] s) (by simpa using he) (by simpa using hr) hdue hgoes
    rw [consumeBytes_build] at hrest
    rw [hsplit]
    exact hfirst.append hrest
  | case3 b0 rest hshort =>
    have hs := hs nofun
    have h3 : rest.length < 3 := by
      match rest, hshort with
      | [], _ | [_], _ | [_, _], _ => simp
      | b1 :: b2 :: b3 :: tail, h => exact absurd rfl (h b1 b2 b3 tail)
    have h4 : (b0 :: rest).length ≤ 4 := by rw [List.length_cons]; omega
    have hfeed : feed s.build.kccBase (b0 :: rest) = [writeEvent s.build.kccBase .din (packWord (b0 :: rest))] := by
      rw [feed, packWords_short h3, List.map_singleton]
    rw [hfeed, ← consumeBytes_packWord hs hB h4]
    exact leads_din he hr hs.active _

/-- A command that issued a stream of X, then Y, and FEED of both complete it. -/
theorem leads_feed_stream {s : State} {X Y : List Byte} (he : s.err.err = false) (hr : s.rst = false)
    (ha : s.pend.op ≠ .idle) (hs : s.pend.seg = .one) (hX : X.length = s.pend.rem1.toNat)
    (hY : Y.length = s.pend.rem2.toNat) :
    Leads (feed s.build.kccBase (X ++ Y)) (advance s)
      (afterSegment2 (withSegment2 Y (afterSegment1 (withSegment1 X s)))) [] := by
  have hi : Issued s := ⟨ha, by simp [hs]⟩
  have hlen : (X ++ Y).length = s.bytesDue := by rw [List.length_append, hX, hY, State.bytesDue]
  have hdue : (X ++ Y).length = (advance s).bytesDue := by
    obtain hz | hpos := Nat.eq_zero_or_pos s.bytesDue
    · rw [(hi.advance_complete hz).2.1, hlen, hz]
    · rw [(hi.advance_due hpos).2.1, hlen]
  have hgoes (hne : X ++ Y ≠ []) : Receiving (advance s) :=
    (hi.advance_due (hlen ▸ List.length_pos_of_ne_nil hne)).1
  have h := leads_feed (X ++ Y) (s := advance s) (by simpa using he) (by simpa using hr) hdue hgoes
  rwa [consumeBytes_stream ha hs hX hY, advance_build] at h

/-! SQUEEZE -/

theorem leads_dout {s : State} (he : s.err.err = false) (hr : s.rst = false)
    (hp : s.phase = .csSqueeze ∨ s.phase = .kmSqueeze) :
    Leads [readEvent s.build.kccBase .dout] s { s with sponge := (squeezeBytes 4 s.sponge).2 }
      [packWord (squeezeBytes 4 s.sponge).1] :=
  leads_read hr fun _ _ => readDout_of_squeezing he hp

theorem wordBytes_packWord_of_length {B : List Byte} (h : B.length = 4) : wordBytes (packWord B) = B := by
  have ht := take_wordBytes_packWord h.le
  rwa [h, List.take_of_length_le (Nat.le_refl 4)] at ht

theorem squeezeBytes_add (m n : Nat) (S : Sponge) :
    squeezeBytes (m + n) S =
      ((squeezeBytes m S).1 ++ (squeezeBytes n (squeezeBytes m S).2).1, (squeezeBytes n (squeezeBytes m S).2).2) := by
  induction m generalizing S with
  | zero => rw [Nat.zero_add]; rfl
  | succ m ih => rw [Nat.succ_add, squeezeBytes, squeezeBytes, ih]; rfl

/-- n reads of DOUT return 4n output bytes (42_sponge_cshake.md R524). -/
theorem leads_squeeze (n : Nat) {s : State} (he : s.err.err = false) (hr : s.rst = false)
    (hp : s.phase = .csSqueeze ∨ s.phase = .kmSqueeze) :
    ∃ ws, ws.flatMap wordBytes = (squeezeBytes (4 * n) s.sponge).1 ∧
      Leads (List.replicate n (readEvent s.build.kccBase .dout)) s
        { s with sponge := (squeezeBytes (4 * n) s.sponge).2 } ws := by
  induction n generalizing s with
  | zero => exact ⟨[], rfl, Leads.nil s⟩
  | succ n ih =>
    obtain ⟨ws, hws, hrest⟩ := ih (s := { s with sponge := (squeezeBytes 4 s.sponge).2 }) he hr hp
    have hn : 4 * (n + 1) = 4 + 4 * n := by omega
    refine ⟨packWord (squeezeBytes 4 s.sponge).1 :: ws, ?_, ?_⟩
    · rw [hn, squeezeBytes_add, List.flatMap_cons, hws,
        wordBytes_packWord_of_length (squeezeBytes_length 4 _)]
    · rw [hn, squeezeBytes_add, List.replicate_succ]
      exact (leads_dout he hr hp).append hrest

end Sys2Proof.Proofs.Accesses
end

section
/-! PROOF. Message streams, what CS_INIT absorbs and the whole of CSHAKE.v (30_encoding.md R313; 42_sponge_cshake.md
R511, R515, R516, R528). -/

namespace Sys2Proof.Proofs.CShakeRuns
open Sys2Proof Sys2Proof.Machine Sys2Proof.Laws SpongeBlocks CommandEffects StreamBytes Accesses

/-! Absorbing and squeezing by whole blocks -/

theorem keccakIter_eq_iterate (j : Nat) (A : Lanes) : keccakIter j A = keccakF^[j] A := by
  induction j generalizing A with
  | zero => rfl
  | succ j ih => exact ih (keccakF A)

/-- A cleared sponge with a domain byte: where every computation starts (42_sponge_cshake.md R503). -/
def freshSponge (v : Variant) (ds : Byte) : Sponge := { spongeClear v with ds := ds }

theorem freshSponge_pos_lt (v : Variant) (ds : Byte) : (freshSponge v ds).pos < (freshSponge v ds).rate := rateOf_pos v

theorem freshSponge_rate_le (v : Variant) (ds : Byte) : (freshSponge v ds).rate ≤ 200 :=
  (rateOf_le v).trans (by decide)

theorem absorb_freshSponge_pos (v : Variant) (ds : Byte) (M : List Byte) :
    (absorb (freshSponge v ds) M).pos = M.length % rateOf v := by
  rw [absorb_pos M (freshSponge_pos_lt v ds)]
  exact congrArg (· % rateOf v) (Nat.zero_add _)

/-- What pad_std closes is padded with zeros (42_sponge_cshake.md R505, R511). -/
theorem padStd_absorb (v : Variant) (ds : Byte) (T : List Byte) :
    padStd (absorb (freshSponge v ds) T) = absorb (freshSponge v ds) (pad0 (rateOf v) T) := by
  rw [padStdAbsorbsZeros _ (absorb_pos_lt T (freshSponge_pos_lt v ds))
    (by rw [absorb_rate]; exact freshSponge_rate_le v ds), absorb_rate, absorb_freshSponge_pos, pad0, absorb_append]
  rfl

/-- What final_pad closes is the finally padded string (42_sponge_cshake.md R506). -/
theorem finalPad_absorb (v : Variant) (ds : Byte) (M : List Byte) :
    finalPad (absorb (freshSponge v ds) M) =
      { absorb (freshSponge v ds) (finalPadded (rateOf v) ds M) with spos := 0 } := by
  have hlt : M.length % rateOf v < rateOf v := Nat.mod_lt _ (rateOf_pos v)
  have hlast : M.length % rateOf v = rateOf v - 1 ↔ rateOf v - M.length % rateOf v = 1 := by omega
  have hrate : (freshSponge v ds).rate = rateOf v := rfl
  have hds : (freshSponge v ds).ds = ds := rfl
  rw [finalPadClosesTheBlock _ (absorb_pos_lt M (freshSponge_pos_lt v ds))
    (by rw [absorb_rate]; exact freshSponge_rate_le v ds), absorb_rate, absorb_ds, absorb_freshSponge_pos, hrate, hds,
    ← absorb_append, finalPadded]
  simp only [hlast]
  split
  · rfl
  · rw [← List.append_assoc, ← List.append_assoc]

theorem length_finalPadded (r : Nat) (ds : Byte) (M : List Byte) (h0 : 0 < r) :
    (finalPadded r ds M).length = r * (M.length / r + 1) := by
  have hlt : M.length % r < r := Nat.mod_lt _ h0
  have hdiv := Nat.div_add_mod M.length r
  rw [Nat.mul_succ]
  unfold finalPadded
  dsimp only
  split
  · rw [List.length_append, List.length_singleton]
    omega
  · simp only [List.length_append, List.length_singleton, zeroBytes, List.length_replicate]
    omega

/-- The output after final_pad is that of the padded string by whole blocks (42_sponge_cshake.md R508). -/
theorem squeezeBytes_finalPad (v : Variant) (ds : Byte) (M : List Byte) (L : Nat) :
    (squeezeBytes L (finalPad (absorb (freshSponge v ds) M))).1 = spongeOutput v ds M L := by
  have hlen := length_finalPadded (rateOf v) ds M (rateOf_pos v)
  have hn : (finalPadded (rateOf v) ds M).length / rateOf v = M.length / rateOf v + 1 := by
    rw [hlen, Nat.mul_div_cancel_left _ (rateOf_pos v)]
  have hblocks : absorb (freshSponge v ds) (finalPadded (rateOf v) ds M) = { freshSponge v ds with
      lanes := absorbBlocks (rateOf v) (M.length / rateOf v + 1) (finalPadded (rateOf v) ds M)
        (Vector.replicate 25 0#64) } := by
    have h := absorb_full_blocks (S := freshSponge v ds) (M.length / rateOf v + 1) (finalPadded (rateOf v) ds M) rfl
      hlen.ge (freshSponge_pos_lt v ds) (freshSponge_rate_le v ds)
    have hrate : (freshSponge v ds).rate = rateOf v := rfl
    rwa [hrate, List.take_of_length_le hlen.le] at h
  rw [finalPad_absorb, hblocks, outputSequenceByBlocks _ L (rateOf_pos v) rfl, spongeOutput, hn]
  exact List.map_congr_left fun k _ => by rw [outputByte, keccakIter_eq_iterate]; rfl

theorem take_squeezeBytes {L n : Nat} (h : L ≤ n) (S : Sponge) :
    (squeezeBytes n S).1.take L = (squeezeBytes L S).1 := by
  obtain ⟨d, rfl⟩ := Nat.exists_eq_add_of_le h
  rw [squeezeBytes_add]
  exact List.take_left' (squeezeBytes_length L S)

/-! ABSORB and its message -/

/-- The state in which a message has been absorbed. -/
def absorbed (X : List Byte) (s : State) : State :=
  { withLena (lengthOperand X) s with
    phase := if s.phase = .kmKeyed then .kmAbsorb else s.phase
    sponge := absorb s.sponge X
    pend := { op := .idle, seg := .two, rem1 := 0#64, rem2 := 0#64, a := lengthOperand X, b := s.lenb } }

theorem absorbed_ready {X : List Byte} {s : State} (h : Ready s) : Ready (absorbed X s) := ⟨h.1, rfl⟩

/-- The stream of ABSORB ends with nothing but the message absorbed. -/
theorem afterSegments_absorbIssued (X : List Byte) (s : State) :
    afterSegment2 (withSegment2 [] (afterSegment1 (withSegment1 X (absorbIssued (withLena (lengthOperand X) s))))) =
      absorbed X s := by
  have hlena := lena_withLena (lengthOperand X) s
  unfold absorbIssued
  rw [hlena]
  rfl

/-- The phases in which a message is absorbed (42_sponge_cshake.md R515). -/
abbrev AbsorbPhase (p : Phase) : Prop := p = .csAbsorb ∨ p = .kmKeyed ∨ p = .kmAbsorb

theorem absorbed_absorbPhase {X : List Byte} {s : State} (h : AbsorbPhase s.phase) :
    AbsorbPhase (absorbed X s).phase := by
  obtain e | e | e := h <;> simp [absorbed, e, AbsorbPhase]

theorem leads_absorbMessage {X : List Byte} {s : State} (hs : Ready s) (hr : s.rst = false) (hX : X.length < 2 ^ 64)
    (hp : AbsorbPhase s.phase) : Leads (absorbMessage s.build.kccBase X) s (absorbed X s) [] := by
  have hcmd : exec .absorb (withLena (lengthOperand X) s) =
      .next (advance (absorbIssued (withLena (lengthOperand X) s))) := exec_absorb_of_ready hs hp
  have hdue : X.length = (absorbIssued (withLena (lengthOperand X) s)).pend.rem1.toNat := by
    show X.length = (withLena (lengthOperand X) s).lena.toNat
    rw [lena_withLena, lengthOperand_toNat hX]
  have hfeed := leads_feed_stream (X := X) (Y := []) (s := absorbIssued (withLena (lengthOperand X) s)) hs.1 hr
    (absorbIssued_active _) rfl hdue rfl
  rw [List.append_nil, afterSegments_absorbIssued] at hfeed
  exact ((leads_setA hr _).append (leads_cmd (s := withLena (lengthOperand X) s) hr hcmd)).append hfeed

/-! CS_INIT with N and S -/

/-- The state in which CS_INIT has been given its lengths. -/
def withLengths (N S : List Byte) (s : State) : State :=
  withLenb (lengthOperand S) (withLena (lengthOperand N) s)

/-- The state in which bytepad(encode_string(N) || encode_string(S), R) has been absorbed. -/
def prefixed (v : Variant) (N S : List Byte) (s : State) : State :=
  { snapClear (withLengths N S s) with
    phase := .csAbsorb
    sponge := absorb (freshSponge v 0x04#8) (bytepad (encodeString N ++ encodeString S) (rateOf v))
    pend := { op := .idle, seg := .two, rem1 := 0#64, rem2 := 0#64, a := lengthOperand N, b := lengthOperand S } }

theorem prefixed_ready (v : Variant) (N S : List Byte) {s : State} (h : Ready s) : Ready (prefixed v N S s) :=
  ⟨h.1, rfl⟩

theorem lena_withLengths (N S : List Byte) (s : State) : (withLengths N S s).lena = lengthOperand N := lena_withLena _ s

theorem lenb_withLengths (N S : List Byte) (s : State) : (withLengths N S s).lenb = lengthOperand S := lenb_withLenb _ _

theorem leftEncode_bitCount (X : List Byte) :
    leftEncode (bitCount (lengthOperand X)) = leftEncode (BitVec.ofNat 64 (8 * X.length)) := by
  rw [bitCount, lengthOperand, BitVec.ofNat_mul]

/-- The bytes CS_INIT and its stream absorb, then pad_std (42_sponge_cshake.md R511). -/
theorem padStd_absorb_bytepad (v : Variant) (N S : List Byte) :
    padStd (absorb (absorb (absorb (absorb (freshSponge v 0x04#8)
      (ratePrefix (rateOf v) ++ leftEncode (bitCount (lengthOperand N)))) N)
        (leftEncode (bitCount (lengthOperand S)))) S) =
      absorb (freshSponge v 0x04#8) (bytepad (encodeString N ++ encodeString S) (rateOf v)) := by
  rw [← absorb_append, ← absorb_append, ← absorb_append, padStd_absorb]
  simp only [bytepad, encodeString, leftEncode_bitCount, ratePrefix, List.append_assoc]

/-- The stream of CS_INIT ends with N, S and their encoded lengths absorbed. -/
theorem afterSegments_csInitIssued (v : Variant) (N S : List Byte) (s : State) :
    afterSegment2 (withSegment2 S (afterSegment1 (withSegment1 N (csInitIssued v (withLengths N S s))))) =
      prefixed v N S s := by
  rw [csInitIssued, lena_withLengths, lenb_withLengths, prefixed, ← padStd_absorb_bytepad]
  rfl

/-- The accesses of CSHAKE.v up to the message (30_encoding.md R313). -/
def csInitAccesses (base : Address) (v : Variant) (N S : List Byte) : List HostEvent :=
  setA base (lengthOperand N) ++ setB base (lengthOperand S) ++ [cmdEvent base (.csInit v)] ++ feed base (N ++ S)

/-- The accesses of CSHAKE.v from the message on (30_encoding.md R313). -/
def outputAccesses (base : Address) (X : List Byte) (L : Nat) : List HostEvent :=
  absorbMessage base X ++ ([cmdEvent base .csFinal] ++ squeeze base L)

theorem cshake_eq (base : Address) (v : Variant) (N S X : List Byte) (L : Nat) :
    cshake base v N S X L = csInitAccesses base v N S ++ outputAccesses base X L := by
  simp only [cshake, csInitAccesses, outputAccesses, List.append_assoc]

section
variable {v : Variant} {N S : List Byte} {s : State}

theorem leads_setLengths (hr : s.rst = false) :
    Leads (setA s.build.kccBase (lengthOperand N) ++ setB s.build.kccBase (lengthOperand S)) s (withLengths N S s) [] :=
  (leads_setA hr _).append (leads_setB (s := withLena (lengthOperand N) s) hr _)

/-- The lengths are set and CS_INIT is performed; its stream is still to come. -/
theorem leads_csInit_feed {u : State} (hs : Ready s) (hr : s.rst = false) (hN : N.length < 2 ^ 61)
    (hS : S.length < 2 ^ 61)
    (hfeed : Leads (feed s.build.kccBase (N ++ S)) (csInitEffect v (withLengths N S s)) u []) :
    Leads (csInitAccesses s.build.kccBase v N S) s u [] := by
  have ha : (withLengths N S s).lena.toNat < 2 ^ 61 := by rwa [lena_withLengths, lengthOperand_toNat (by omega)]
  have hb : (withLengths N S s).lenb.toNat < 2 ^ 61 := by rwa [lenb_withLengths, lengthOperand_toNat (by omega)]
  have hx : exec (.csInit v) (withLengths N S s) = .next (csInitEffect v (withLengths N S s)) :=
    exec_init_of_ready (.inl rfl) hs ha hb
  exact ((leads_setLengths hr).append (leads_cmd (s := withLengths N S s) hr hx)).append hfeed

theorem lengthOperand_eq_zero_iff {B : List Byte} (h : B.length < 2 ^ 64) : lengthOperand B = 0#64 ↔ B = [] := by
  rw [← BitVec.toNat_inj, lengthOperand_toNat h, BitVec.toNat_zero, List.length_eq_zero_iff]

/-- CS_INIT and its stream (42_sponge_cshake.md R511). -/
theorem leads_bytepad (hs : Ready s) (hr : s.rst = false) (hN : N.length < 2 ^ 61) (hS : S.length < 2 ^ 61)
    (hne : ¬ (N = [] ∧ S = [])) : Leads (csInitAccesses s.build.kccBase v N S) s (prefixed v N S s) [] := by
  have hstream : csInitEffect v (withLengths N S s) = advance (csInitIssued v (withLengths N S s)) := by
    refine (csInitEffect_eq v _).trans (if_neg ?_)
    rwa [lena_withLengths, lenb_withLengths, lengthOperand_eq_zero_iff (by omega),
      lengthOperand_eq_zero_iff (by omega)]
  have hdueN : N.length = (withLengths N S s).lena.toNat := by
    rw [lena_withLengths, lengthOperand_toNat (by omega)]
  have hdueS : S.length = (withLengths N S s).lenb.toNat := by
    rw [lenb_withLengths, lengthOperand_toNat (by omega)]
  refine leads_csInit_feed hs hr hN hS ?_
  rw [hstream, ← afterSegments_csInitIssued]
  exact leads_feed_stream (s := csInitIssued v (withLengths N S s)) hs.1 hr (csInitIssued_active _ _) rfl hdueN hdueS

/-- CS_INIT without a stream (42_sponge_cshake.md R512). -/
theorem leads_shake (hs : Ready s) (hr : s.rst = false) :
    Leads (csInitAccesses s.build.kccBase v [] []) s (shakeStarted v (withLengths [] [] s)) [] := by
  have hshake : csInitEffect v (withLengths [] [] s) = shakeStarted v (withLengths [] [] s) := by
    rw [csInitEffect_eq, lena_withLengths, lenb_withLengths, if_pos ⟨rfl, rfl⟩]
  refine leads_csInit_feed hs hr (by decide) (by decide) ?_
  rw [hshake]
  exact Leads.nil _

end

/-! From CS_INIT to the output -/

/-- In CS_ABSORB, where a fresh sponge with domain byte ds has absorbed M: the state in which CSHAKE.v issues
its message. -/
structure Opened (v : Variant) (ds : Byte) (M : List Byte) (s : State) : Prop where
  ready : Ready s
  rst : s.rst = false
  phase : s.phase = .csAbsorb
  sponge : s.sponge = absorb (freshSponge v ds) M

section
variable {v : Variant} {ds : Byte} {M N S X : List Byte} {s : State}

theorem Opened.after_message (h : Opened v ds M s) (X : List Byte) : Opened v ds (M ++ X) (absorbed X s) where
  ready := absorbed_ready h.ready
  rst := h.rst
  phase := by simp [absorbed, h.phase]
  sponge := by
    show absorb s.sponge X = _
    rw [h.sponge, absorb_append]

/-- The message, CS_FINAL and the reads return the output over what was absorbed and the message. -/
theorem Opened.leads_output (h : Opened v ds M s) (hX : X.length < 2 ^ 64) (L : Nat) :
    ∃ u ws, Leads (outputAccesses s.build.kccBase X L) s u ws ∧
      (ws.flatMap wordBytes).take L = spongeOutput v ds (M ++ X) L ∧ u.phase = .csSqueeze ∧ Ready u := by
  have ha := h.after_message X
  have hmsg := leads_absorbMessage h.ready h.rst hX (.inl h.phase)
  have hfinal := leads_cmd ha.rst (csFinalOpensTheSqueeze _ ha.ready ha.phase)
  obtain ⟨ws, hws, hout⟩ := leads_squeeze ((L + 3) / 4) (s := csFinalEffect (absorbed X s)) ha.ready.1 ha.rst (.inl rfl)
  refine ⟨_, _, hmsg.append (hfinal.append hout), ?_, rfl, ha.ready⟩
  rw [List.nil_append, List.nil_append, hws, take_squeezeBytes (by omega)]
  show (squeezeBytes L (finalPad (absorbed X s).sponge)).1 = _
  rw [ha.sponge, squeezeBytes_finalPad]

/-- CS_INIT and its stream open the computation of cSHAKE, or of SHAKE for empty N and S. -/
theorem leads_opened (hs : Ready s) (hr : s.rst = false) (hN : N.length < 2 ^ 61) (hS : S.length < 2 ^ 61) :
    ∃ u, Leads (csInitAccesses s.build.kccBase v N S) s u [] ∧ u.build = s.build ∧
      (if N = [] ∧ S = [] then Opened v 0x1F#8 [] u
       else Opened v 0x04#8 (bytepad (encodeString N ++ encodeString S) (rateOf v)) u) := by
  by_cases hne : N = [] ∧ S = []
  · obtain ⟨rfl, rfl⟩ := hne
    refine ⟨_, leads_shake hs hr, rfl, ?_⟩
    rw [if_pos ⟨rfl, rfl⟩]
    exact ⟨hs, hr, rfl, rfl⟩
  · refine ⟨_, leads_bytepad hs hr hN hS hne, rfl, ?_⟩
    rw [if_neg hne]
    exact ⟨prefixed_ready v N S hs, hr, rfl, rfl⟩

/-- The accesses of CSHAKE.v return the output of its definition. -/
theorem leads_cshake (hs : Ready s) (hr : s.rst = false) (hN : N.length < 2 ^ 61) (hS : S.length < 2 ^ 61)
    (hX : X.length < 2 ^ 64) (L : Nat) :
    ∃ u ws, Leads (cshake s.build.kccBase v N S X L) s u ws ∧
      (ws.flatMap wordBytes).take L = cshakeOutput v N S X L ∧ u.phase = .csSqueeze ∧ Ready u := by
  obtain ⟨t, hopen, hbuild, ht⟩ := leads_opened (v := v) hs hr hN hS
  rw [cshake_eq, cshakeOutput, ← hbuild]
  rw [← hbuild] at hopen
  split at ht
  next h =>
    obtain ⟨u, ws, hout, hrest⟩ := ht.leads_output hX L
    exact ⟨u, ws, hopen.append hout, by rwa [if_pos h]⟩
  next h =>
    obtain ⟨u, ws, hout, hrest⟩ := ht.leads_output hX L
    exact ⟨u, ws, hopen.append hout, by rwa [if_neg h]⟩

end

end Sys2Proof.Proofs.CShakeRuns

namespace Sys2Proof.Proofs
open Sys2Proof Sys2Proof.Machine Sys2Proof.Laws SpongeBlocks Accesses CShakeRuns

/-- Settles O38: a message is one stream; two are the one with both, since absorption composes. -/
theorem messageStreamDeliversAndSplits : Obligations.MessageStreamDeliversAndSplits := by
  refine ⟨fun X s hs hr hX hp => ?_, fun X Y s hs hr hXY hp => ?_⟩
  · obtain ⟨obs, _, hrun⟩ := (leads_absorbMessage hs hr hX hp).runInputs
    exact ⟨_, hrun, rfl, absorbed_ready hs, rfl, rfl, rfl⟩
  · have hX := leads_absorbMessage (X := X) hs hr (by omega) hp
    have hY := leads_absorbMessage (X := Y) (s := absorbed X s) (absorbed_ready hs) hr (by omega)
      (absorbed_absorbPhase hp)
    obtain ⟨_, _, hrun⟩ := (hX.append hY).runInputs
    obtain ⟨_, _, hrun'⟩ := (leads_absorbMessage (X := X ++ Y) hs hr (by simpa using hXY) hp).runInputs
    refine ⟨_, _, hrun, hrun', (absorb_append s.sponge X Y).symm, ?_⟩
    obtain e | e | e := hp <;> simp [withLists, absorbed, e]

/-- Settles O39: the stream of CS_INIT is N and S, each with its encoded length absorbed before it. -/
theorem csInitAbsorbsThePrefix : Obligations.CsInitAbsorbsThePrefix := by
  intro v N S s hs hr hN hS hpos
  have hne : ¬ (N = [] ∧ S = []) := by rintro ⟨rfl, rfl⟩; exact absurd hpos (by decide)
  obtain ⟨_, _, hrun⟩ := (leads_bytepad (v := v) hs hr hN hS hne).runInputs
  exact ⟨_, hrun, rfl, rfl, prefixed_ready v N S hs⟩

/-- Settles O41: the reads of the run are the words whose bytes are the output. -/
theorem cshakeAccessesReturnCshake : Obligations.CshakeAccessesReturnCshake := by
  intro v N S X L s hs hr hN hS hX
  obtain ⟨t, ws, hleads, hbytes, hphase, ht⟩ := leads_cshake (v := v) hs hr hN hS hX L
  obtain ⟨obs, hws, hrun⟩ := hleads.runInputs
  refine ⟨_, hrun, ?_, hphase, ht⟩
  show outputBytes ((s.observed ++ obs).drop s.observed.length) L = _
  rw [List.drop_left, outputBytes, hws, hbytes]

end Sys2Proof.Proofs
end

section
/-! PROOF. KMAC_RESTORE and the phases (43_kmac.md R562, R575, R576): what each command does to PHASE, against the table
of R575, and what leaves KM_SQUEEZE in a core that keeps no snapshot. -/

namespace Sys2Proof.Proofs.Phases
open Sys2Proof Sys2Proof.Machine Sys2Proof.Laws Invariant CommandEffects StreamBytes

/-! KMAC_RESTORE -/

theorem exec_kmacRestore_of_ready {s : State} (hs : Ready s) (hp : KmacPhase s.phase) (hv : s.snapValid = true) :
    exec .kmacRestore s = .next (kmacRestoreEffect s) :=
  exec_of_ready hs nofun (by simpa [phaseAllowed, or_assoc] using hp) (by simp [snapshotMissing, hv]) rfl

/-- A snapshot holds all of a sponge but spos, which is restored as 0 (10_state.md R122). -/
theorem restoredSponge_snapshotOf {S : Sponge} (h : S.spos = 0) : restoredSponge (snapshotOf S) = S := by
  rw [restoredSponge, ← h]
  rfl

/-! The table of R575 -/

/-- The table says err exactly in the phases that step 5 of 60_exceptions.md R702 turns away. -/
theorem phaseTable_eq_none_iff (i : Instr) (s : State) : phaseTable i s = none ↔ phaseAllowed i s.phase = false := by
  unfold phaseTable phaseAllowed
  cases i with
  | absorb | csFinal | kmacFinal | kmacRestore => cases s.phase <;> simp
  | _ => exact iff_of_false nofun nofun

theorem failedCheck_badPhase {i : Instr} {s : State} (hs : Ready s) (hp : phaseAllowed i s.phase = false) :
    failedCheck i s = some .badPhase := by
  simp [failedCheck, pending_eq_false.2 hs.2, hp]

theorem bytesDue_eq_zero_iff (s : State) : s.bytesDue = 0 ↔ s.pend.rem1 = 0#64 ∧ s.pend.rem2 = 0#64 := by
  simp [State.bytesDue, BitVec.toNat_eq]

/-- A stream issued in its first segment leaves the phase while a byte is due, and else completes. -/
theorem advance_phase {s : State} (ha : s.pend.op ≠ .idle) (hs : s.pend.seg = .one) :
    (advance s).phase =
      if s.pend.rem1 = 0#64 ∧ s.pend.rem2 = 0#64 then completedPhase s.pend.op s.phase else s.phase := by
  have hi : Issued s := ⟨ha, by simp [hs]⟩
  split
  next hz => exact (hi.advance_complete ((bytesDue_eq_zero_iff s).2 hz)).2.2
  next hz => exact (hi.advance_due (Nat.pos_of_ne_zero (mt (bytesDue_eq_zero_iff s).1 hz))).2.2.2

theorem csInitEffect_phase (v : Variant) (s : State) :
    (csInitEffect v s).phase = if s.lena = 0#64 ∧ s.lenb = 0#64 then .csAbsorb else .idle := by
  rw [csInitEffect_eq]
  split
  next => rfl
  next h => exact (advance_phase (csInitIssued_active v s) rfl).trans (if_neg h)

theorem kmacInitEffect_phase (v : Variant) (s : State) :
    (kmacInitEffect v s).phase = if s.lena = 0#64 ∧ s.lenb = 0#64 then .kmKeyed else .idle :=
  (advance_phase (kmacInitIssued_active v s) rfl).trans (if_congr and_comm rfl rfl)

/-- A message of any length leaves the phase in which ABSORB has put the block (42_sponge_cshake.md R515). -/
theorem absorbEffect_phase (s : State) :
    (absorbEffect s).phase = if s.phase = .kmKeyed then .kmAbsorb else s.phase :=
  (advance_phase (absorbIssued_active s) rfl).trans (ite_self _)

/-- Every effect leaves the phase of the table. -/
theorem effect_phase {i : Instr} {s : State} {p : Phase} (h : phaseTable i s = some p) : (effect i s).phase = p := by
  cases i with
  | csInit v => exact (csInitEffect_phase v s).trans (Option.some.inj h)
  | kmacInit v => exact (kmacInitEffect_phase v s).trans (Option.some.inj h)
  | absorb =>
    refine (absorbEffect_phase s).trans ?_
    unfold phaseTable at h
    generalize s.phase = q at h ⊢
    cases q <;> cases h <;> rfl
  | csFinal | kmacFinal | kmacRestore =>
    unfold phaseTable at h
    generalize s.phase = q at h
    cases q <;> cases h <;> rfl
  | nop | encLeft | encRight | softReset => exact Option.some.inj h

/-- No effect but that of SOFT_RESET touches the latch. -/
theorem effect_err {i : Instr} (hi : i ≠ .softReset) (s : State) : (effect i s).err = s.err := by
  cases i with
  | csInit v =>
    show (csInitEffect v s).err = s.err
    rw [csInitEffect_eq]
    split
    · rfl
    · exact advance_err _
  | kmacInit v => exact advance_err _
  | absorb => exact advance_err _
  | softReset => exact absurd rfl hi
  | _ => rfl

theorem lengthError_eq_false {i : Instr} {s : State}
    (h : ∀ v : Variant, i = .csInit v ∨ i = .kmacInit v → s.lena.toNat < 2 ^ 61 ∧ s.lenb.toNat < 2 ^ 61) :
    lengthError i s = false := by
  by_contra hl
  rw [Bool.not_eq_false] at hl
  obtain ⟨v, hi⟩ := lengthError_eq_true hl
  obtain ⟨ha, hb⟩ := h v hi
  obtain rfl | rfl := hi
  all_goals simp [lengthError, lengthTooLong_eq_false ha, lengthTooLong_eq_false hb] at hl

theorem snapshotMissing_eq_false {i : Instr} {s : State} (h : i = .kmacRestore → s.snapValid = true) :
    snapshotMissing i s = false := by
  by_contra hm
  rw [Bool.not_eq_false] at hm
  obtain ⟨hi, hv⟩ := snapshotMissing_eq_true hm
  exact Bool.false_ne_true (hv.symm.trans (h hi))

/-- No read moves the phase. -/
theorem readReg_phase (r : Reg) (s : State) : (readReg r s).2.phase = s.phase := by
  by_cases hr : r = .dout
  · subst hr
    show (readDout s).2.phase = s.phase
    obtain ⟨_, e⟩ | ⟨_, _, e⟩ | ⟨_, _, e⟩ := readDout_cases s
    all_goals simp [e]
  · rw [readReg_state hr]

/-! KM_SQUEEZE without a snapshot (43_kmac.md R576) -/

theorem snapValid_of_not_resettable {s : State} (h : s.Inv) (hr : s.build.resettable = false) :
    s.snapValid = false := by
  rw [← Bool.not_eq_true, h.snap_valid, hr]
  exact fun hk => Bool.false_ne_true hk.1

/-- In KM_SQUEEZE without a snapshot a command whose checks pass is an initialization, or leaves the phase. -/
theorem init_of_leaves_kmSqueeze {i : Instr} {s : State} (hp : s.phase = .kmSqueeze) (hv : s.snapValid = false)
    (hi : i ≠ .softReset) (hf : failedCheck i s = none) (hne : (effect i s).phase ≠ .kmSqueeze) :
    ∃ v, i = .csInit v ∨ i = .kmacInit v := by
  obtain ⟨_, ha, hm, _⟩ := failedCheck_none.1 hf
  cases i with
  | csInit v => exact ⟨v, .inl rfl⟩
  | kmacInit v => exact ⟨v, .inr rfl⟩
  | nop | encLeft | encRight => exact absurd hp hne
  | absorb | csFinal | kmacFinal => simp [phaseAllowed, hp] at ha
  | kmacRestore => simp [snapshotMissing, hv] at hm
  | softReset => exact absurd rfl hi

/-- The only write that leaves KM_SQUEEZE without a snapshot is that of an initialization or SOFT_RESET to CMD. -/
theorem writeReg_leaves_kmSqueeze {r : Reg} {w : Word} {s u : State} (hinv : s.Inv)
    (hr : s.build.resettable = false) (hp : s.phase = .kmSqueeze) (hw : writeReg r w s = .next u)
    (hne : u.phase ≠ .kmSqueeze) :
    r = .cmd ∧ w ∈ ([0x00000001, 0x00000101, 0x00000004, 0x00000104, 0x000000FF] : List Word) := by
  cases r with
  | cmd =>
    refine ⟨rfl, ?_⟩
    obtain ⟨hd, e⟩ | ⟨_, _, e⟩ | ⟨_, _, _, e⟩ | ⟨_, _, _, _, _, _, e⟩ | ⟨i, hd, hi, _, hf, e⟩ := writeCmd_cases w s
    all_goals obtain rfl := Host.Outcome.next.inj (e.symm.trans hw)
    · rw [← encode_of_decode hd]
      decide
    · exact absurd hp hne
    · exact absurd hp hne
    · exact absurd hp hne
    · obtain ⟨v, rfl | rfl⟩ := init_of_leaves_kmSqueeze hp (snapValid_of_not_resettable hinv hr) hi hf hne
      all_goals
        rw [← encode_of_decode hd]
        cases v <;> decide
  | din =>
    obtain rfl := Host.Outcome.next.inj hw
    have hop : s.pend.op = .idle := idle_of_squeezing hinv (by rw [hp]; rfl)
    obtain ⟨_, e⟩ | ⟨_, hact, _⟩ | ⟨_, _, e⟩ := writeDin_cases w s
    · exact absurd hp (e ▸ hne)
    · exact absurd hop hact
    · rw [e] at hne
      exact absurd hp hne
  | _ =>
    obtain rfl := Host.Outcome.next.inj hw
    exact absurd hp hne

end Sys2Proof.Proofs.Phases

namespace Sys2Proof.Proofs
open Sys2Proof.Machine Sys2Proof.Laws Invariant Phases

/-- Settles O30: KMAC_RESTORE passes its checks in each of the three phases. -/
theorem kmacRestoreReturnsToTheSnapshot : Obligations.KmacRestoreReturnsToTheSnapshot :=
  fun _ hs hp hv => exec_kmacRestore_of_ready hs hp hv

/-- Settles O31: the invariant says that in KM_KEYED the snapshot is that of S, whose spos is 0. -/
theorem restoreInKeyedChangesNothing : Obligations.RestoreInKeyedChangesNothing := by
  intro s hinv hs hp hv
  obtain ⟨_, hspos, _, hsnap⟩ := hinv.keyed hp
  rw [exec_kmacRestore_of_ready hs (.inl hp) hv, kmacRestoreEffect, hsnap hv, restoredSponge_snapshotOf hspos,
    ← hsnap hv, ← hp]

/-- Settles O36: where the table says err the phase check fails; elsewhere the effect leaves the phase of the table. -/
theorem phaseTransitionTable : Obligations.PhaseTransitionTable := by
  refine ⟨fun i s hs hsnap hlen => ?_, fun s hs => ⟨readReg_phase .dout s, ?_⟩⟩
  · cases hp : phaseTable i s with
    | none =>
      have ha := (phaseTable_eq_none_iff i s).1 hp
      have hi : i ≠ .softReset := by rintro rfl; cases ha
      exact ⟨_, (exec_eq_checked hi s).trans (checked_raises hs.1 (failedCheck_badPhase hs ha)), rfl⟩
    | some p =>
      by_cases hi : i = .softReset
      · subst hi
        exact ⟨_, exec_softReset s, Option.some.inj hp, rfl⟩
      have ha : phaseAllowed i s.phase = true := by
        rw [← Bool.not_eq_false, ← phaseTable_eq_none_iff, hp]
        nofun
      have hm : snapshotMissing i s = false := snapshotMissing_eq_false fun hk => hsnap hk (by rw [hp]; nofun)
      exact ⟨_, exec_of_ready hs hi ha hm (lengthError_eq_false hlen), effect_phase hp,
        by rw [effect_err hi]; exact hs.1⟩
  · show (readDout s).2.err.err = false ↔ _
    have hq : squeezing s.phase = true ↔ s.phase = .csSqueeze ∨ s.phase = .kmSqueeze := by simp [squeezing]
    rw [← hq]
    obtain ⟨he, _⟩ | ⟨he, h, e⟩ | ⟨_, h, e⟩ := readDout_cases s
    · exact absurd (he.symm.trans hs.1) nofun
    · rw [e]
      exact iff_of_true he h
    · rw [e, h]
      exact iff_of_false nofun nofun

/-- Settles O59: without a snapshot KMAC_RESTORE fails its check, and nothing but an initialization or a reset leaves the
phase. -/
theorem nonResettableSqueezeIsTerminal : Obligations.NonResettableSqueezeIsTerminal := by
  intro s hinv hr hp
  refine ⟨fun hs => ?_, fun t hst hne => ?_⟩
  · have hf : failedCheck .kmacRestore s = some .noSnapshot := by
      simp [failedCheck, pending_eq_false.2 hs.2, phaseAllowed, hp, snapshotMissing,
        snapValid_of_not_resettable hinv hr]
    exact checked_raises hs.1 hf
  · obtain ⟨_, rfl⟩ | ⟨addr, m, w, rest, u, hi, _, hw, rfl⟩ | ⟨addr, m, rest, _, _, rfl⟩ | ⟨rest, hi, _⟩
      | ⟨a, rest, hi, _, _⟩ | ⟨rest, hi, _⟩ := step_cases hst
    · exact absurd hp hne
    · obtain ⟨hsel, hword⟩ := writeReg_leaves_kmSqueeze (inv_withInputs hinv rest) hr hp hw hne
      exact ⟨_, rest, hi, .inl ⟨addr, m, w, rfl, hsel, hword⟩⟩
    · exact absurd ((readReg_phase _ (s.withInputs rest)).trans hp) hne
    · exact ⟨_, rest, hi, .inr (.inl rfl)⟩
    · exact ⟨_, rest, hi, .inr (.inr (.inl ⟨a, rfl⟩))⟩
    · exact ⟨_, rest, hi, .inr (.inr (.inr rfl))⟩

end Sys2Proof.Proofs
end

section
/-! PROOF. The key block (43_kmac.md R555, R557), what KMAC_INIT and its stream leave, and the whole of KMACXOF.v and
KMAC_AGAIN (30_encoding.md R313; 43_kmac.md R556, R561, R564). -/

namespace Sys2Proof.Proofs.KmacRuns
open Sys2Proof Sys2Proof.Machine Sys2Proof.Laws
open Invariant SpongeBlocks CommandEffects StreamBytes Accesses CShakeRuns Phases

/-! The key block -/

/-- What the key pad is appended to: left_encode(R), left_encode(8|K|) and K (43_kmac.md R552, R557). -/
def keyMaterial (r : Nat) (K : List Byte) : List Byte := leftEncode (BitVec.ofNat 64 r) ++ encodeString K

/-- The key material with its padding, and Z where there is one. -/
theorem keyBlock_eq (m : KeypadMode) (r : Nat) (K : List Byte) :
    keyBlock m r K = pad0 r (keyMaterial r K) ++
      if m = .zeroBlock ∧ (keyMaterial r K).length % r = 0 then zeroBytes r else [] := rfl

theorem keyMaterial_eq (v : Variant) (K : List Byte) :
    keyMaterial (rateOf v) K = ratePrefix (rateOf v) ++ leftEncode (bitCount (lengthOperand K)) ++ K := by
  rw [leftEncode_bitCount, List.append_assoc]
  rfl

/-- left_encode(R) is two bytes long, and left_encode(n) is one longer than minlen(n). -/
theorem length_ratePrefix_leftEncode (v : Variant) (n : U64) (K : List Byte) :
    (ratePrefix (rateOf v) ++ leftEncode n ++ K).length = 3 + minlen n + K.length := by
  rw [ratePrefix_rateOf, List.length_append, List.length_append, leftEncode_length]
  simp only [List.length_cons, List.length_nil]
  omega

/-- ZERO_BLOCK absorbs zeros to the end of the block, a whole block at pos = 0 (43_kmac.md R555). -/
theorem keypad_zeroBlock {S : Sponge} (h : S.pos < S.rate) (hr : S.rate ≤ 200) :
    keypad .zeroBlock S = absorb S (zeroBytes (S.rate - S.pos)) := (absorb_zeroBytes_to_end h hr).symm

/-- NONE absorbs zeros to the next block boundary, none at pos = 0 (43_kmac.md R555). -/
theorem keypad_noBlock {S : Sponge} (h : S.pos < S.rate) (hr : S.rate ≤ 200) :
    keypad .noBlock S = absorb S (zeroBytes ((S.rate - S.pos) % S.rate)) := padStdAbsorbsZeros S h hr

/-- The key pad after key material absorbed from the start of a block closes the key block. -/
theorem keypad_absorb_keyMaterial (m : KeypadMode) {S : Sponge} {r : Nat} (K : List Byte) (hS : S.rate = r)
    (hp : S.pos = 0) (h0 : 0 < r) (hr : r ≤ 200) :
    keypad m (absorb S (keyMaterial r K)) = absorb S (keyBlock m r K) := by
  have hlt : S.pos < S.rate := by omega
  have hrate : (absorb S (keyMaterial r K)).rate = r := (absorb_rate S _).trans hS
  have hpos : (absorb S (keyMaterial r K)).pos = (keyMaterial r K).length % r := by
    rw [absorb_pos _ hlt, hp, Nat.zero_add, hS]
  have hmod : (keyMaterial r K).length % r < r := Nat.mod_lt _ h0
  rw [keyBlock_eq]
  cases m with
  | noBlock =>
    rw [keypad_noBlock (absorb_pos_lt _ hlt) (hrate.trans_le hr), hrate, hpos, ← absorb_append, if_neg (by simp),
      List.append_nil, pad0]
  | zeroBlock =>
    rw [keypad_zeroBlock (absorb_pos_lt _ hlt) (hrate.trans_le hr), hrate, hpos, ← absorb_append, pad0]
    by_cases hz : (keyMaterial r K).length % r = 0
    · rw [if_pos ⟨rfl, hz⟩, hz, Nat.sub_zero, Nat.mod_self, List.append_assoc]
      rfl
    · rw [if_neg fun h => hz h.2, List.append_nil, Nat.mod_eq_of_lt (by omega : r - (keyMaterial r K).length % r < r)]

/-- Without Z the key block is the bytepad of SP 800-185. -/
theorem keyBlock_eq_bytepad {m : KeypadMode} {v : Variant} {K : List Byte}
    (h : m = .noBlock ∨ (3 + minlen (8 * lengthOperand K) + K.length) % rateOf v ≠ 0) :
    keyBlock m (rateOf v) K = bytepad (encodeString K) (rateOf v) := by
  have hlen : (keyMaterial (rateOf v) K).length = 3 + minlen (8 * lengthOperand K) + K.length := by
    rw [keyMaterial_eq, length_ratePrefix_leftEncode]
    rfl
  rw [keyBlock_eq, hlen, if_neg, List.append_nil]
  · rfl
  · rintro ⟨rfl, hz⟩
    exact h.elim nofun fun hnz => hnz hz

/-! KMAC_INIT with S and K -/

/-- The string of 43_kmac.md R557: the bytepad of the function name and S, and the key block. -/
def keyedString (m : KeypadMode) (v : Variant) (K S : List Byte) : List Byte :=
  bytepad (encodeString functionName ++ encodeString S) (rateOf v) ++ keyBlock m (rateOf v) K

/-- The sponge that has absorbed it. -/
def keyedSponge (m : KeypadMode) (v : Variant) (K S : List Byte) : Sponge :=
  absorb (freshSponge v 0x04#8) (keyedString m v K S)

/-- The bytes KMAC_INIT absorbs, then S and pad_std, are the bytepad of the function name and S. -/
theorem padStd_absorb_kmacPrefix (v : Variant) (S : List Byte) :
    padStd (absorb (absorb (freshSponge v 0x04#8) (kmacPrefix (rateOf v) (lengthOperand S))) S) =
      absorb (freshSponge v 0x04#8) (bytepad (encodeString functionName ++ encodeString S) (rateOf v)) := by
  have hname : BitVec.ofNat 64 (8 * functionName.length) = 32#64 := rfl
  rw [← absorb_append, padStd_absorb]
  simp only [bytepad, encodeString, hname, kmacPrefix, leftEncode_bitCount, ratePrefix, List.append_assoc]

/-- The key material and the key pad after that bytepad give the string of 43_kmac.md R557. -/
theorem keypad_absorb_key (m : KeypadMode) (v : Variant) (K S : List Byte) :
    keypad m (absorb (absorb (padStd
      (absorb (absorb (freshSponge v 0x04#8) (kmacPrefix (rateOf v) (lengthOperand S))) S))
        (ratePrefix (rateOf v) ++ leftEncode (bitCount (lengthOperand K)))) K) = keyedSponge m v K S := by
  have hrate (B : List Byte) : (padStd (absorb (freshSponge v 0x04#8) B)).rate = rateOf v :=
    (padStd_rate _).trans (absorb_rate _ _)
  rw [← absorb_append _ _ K, ← keyMaterial_eq, ← absorb_append,
    keypad_absorb_keyMaterial m K (hrate _) (padStd_pos _) (rateOf_pos v) ((rateOf_le v).trans (by decide)),
    absorb_append, padStd_absorb_kmacPrefix, ← absorb_append]
  rfl

theorem keyedSponge_pos (m : KeypadMode) (v : Variant) (K S : List Byte) : (keyedSponge m v K S).pos = 0 := by
  rw [← keypad_absorb_key]
  exact keypad_pos m _

/-- The state in which KMAC_INIT and its stream have completed (43_kmac.md R556, R557). -/
def keyed (v : Variant) (K S : List Byte) (s : State) : State :=
  { withLengths K S s with
    phase := .kmKeyed
    sponge := keyedSponge s.build.keypadOnBoundary v K S
    snap := if s.build.resettable then snapshotOf (keyedSponge s.build.keypadOnBoundary v K S) else Snapshot.reset
    snapValid := s.build.resettable
    pend := { op := .idle, seg := .two, rem1 := 0#64, rem2 := 0#64, a := lengthOperand K, b := lengthOperand S } }

theorem kmacInitEnd1_eq {s : State} {r : Nat} (h : s.sponge.rate = r) :
    kmacInitEnd1 s =
      { s with sponge := absorb (padStd s.sponge) (ratePrefix r ++ leftEncode (bitCount s.pend.a)) } := by
  rw [kmacInitEnd1, onSponge, h]

/-- Segment 1 of KMAC_INIT has ended: the bytepad is closed and the encoded lengths of the key block are absorbed
(43_kmac.md R552). -/
theorem afterSegment1_kmacInitIssued (v : Variant) (K S : List Byte) (s : State) :
    afterSegment1 (withSegment1 S (kmacInitIssued v (withLengths K S s))) =
      { snapClear (withLengths K S s) with
        phase := .idle
        sponge := absorb (padStd
          (absorb (absorb (freshSponge v 0x04#8) (kmacPrefix (rateOf v) (lengthOperand S))) S))
            (ratePrefix (rateOf v) ++ leftEncode (bitCount (lengthOperand K)))
        pend := { op := .kmacInit, seg := .two, rem1 := 0#64, rem2 := lengthOperand K, a := lengthOperand K,
                  b := lengthOperand S } } := by
  have hrate : (withSegment1 S (kmacInitIssued v (withLengths K S s))).sponge.rate = rateOf v :=
    (absorb_rate _ _).trans (absorb_rate _ _)
  have hend : endOfSegment1 (withSegment1 S (kmacInitIssued v (withLengths K S s))) =
      kmacInitEnd1 (withSegment1 S (kmacInitIssued v (withLengths K S s))) := rfl
  rw [afterSegment1, hend, kmacInitEnd1_eq hrate, kmacInitIssued, lena_withLengths, lenb_withLengths]
  rfl

/-- The stream of KMAC_INIT ends with the string of 43_kmac.md R557 absorbed and the snapshot taken. -/
theorem afterSegments_kmacInitIssued (v : Variant) (K S : List Byte) (s : State) :
    afterSegment2 (withSegment2 K (afterSegment1 (withSegment1 S (kmacInitIssued v (withLengths K S s))))) =
      keyed v K S s := by
  rw [afterSegment1_kmacInitIssued, afterSegment2, withSegment2, endOfSegment2_of_kmacInit rfl, kmacInitEnd2_eq, keyed,
    ← keypad_absorb_key]
  dsimp only [snapClear]
  rw [Bool.or_false]
  rfl

/-- The accesses of KMACXOF.v up to the message (30_encoding.md R313). -/
def kmacInitAccesses (base : Address) (v : Variant) (K S : List Byte) : List HostEvent :=
  setA base (lengthOperand K) ++ setB base (lengthOperand S) ++ [cmdEvent base (.kmacInit v)] ++ feed base (S ++ K)

/-- The accesses of KMACXOF.v and KMAC_AGAIN from the message on (30_encoding.md R313). -/
def kmacOutputAccesses (base : Address) (X : List Byte) (L : Nat) : List HostEvent :=
  absorbMessage base X ++ ([cmdEvent base .kmacFinal] ++ squeeze base L)

theorem kmacxof_eq (base : Address) (v : Variant) (K S X : List Byte) (L : Nat) :
    kmacxof base v K S X L = kmacInitAccesses base v K S ++ kmacOutputAccesses base X L := by
  simp only [kmacxof, kmacInitAccesses, kmacOutputAccesses, List.append_assoc]

theorem kmacAgain_eq (base : Address) (X : List Byte) (L : Nat) :
    kmacAgain base X L = [cmdEvent base .kmacRestore] ++ kmacOutputAccesses base X L := by
  simp only [kmacAgain, kmacOutputAccesses, List.append_assoc]

/-- KMAC_INIT and its stream (43_kmac.md R557). -/
theorem leads_keyed {v : Variant} {K S : List Byte} {s : State} (hs : Ready s) (hr : s.rst = false)
    (hK : K.length < 2 ^ 61) (hS : S.length < 2 ^ 61) :
    Leads (kmacInitAccesses s.build.kccBase v K S) s (keyed v K S s) [] := by
  have hdueK : (withLengths K S s).lena.toNat = K.length := by
    rw [lena_withLengths, lengthOperand_toNat (by omega)]
  have hdueS : (withLengths K S s).lenb.toNat = S.length := by
    rw [lenb_withLengths, lengthOperand_toNat (by omega)]
  have hx : exec (.kmacInit v) (withLengths K S s) = .next (advance (kmacInitIssued v (withLengths K S s))) :=
    exec_init_of_ready (.inr rfl) hs (hdueK.trans_lt hK) (hdueS.trans_lt hS)
  have hfeed := leads_feed_stream (s := kmacInitIssued v (withLengths K S s)) hs.1 hr (kmacInitIssued_active _ _) rfl
    hdueS.symm hdueK.symm
  rw [afterSegments_kmacInitIssued] at hfeed
  exact ((leads_setLengths hr).append (leads_cmd (s := withLengths K S s) hr hx)).append hfeed

/-! From KM_KEYED to the output -/

/-- In KM_KEYED, where a fresh sponge with domain byte 0x04 has absorbed M: the state in which KMACXOF.v and KMAC_AGAIN
issue their message. -/
structure Keyed (v : Variant) (M : List Byte) (s : State) : Prop where
  ready : Ready s
  rst : s.rst = false
  phase : s.phase = .kmKeyed
  sponge : s.sponge = absorb (freshSponge v 0x04#8) M

theorem keyed_isKeyed {s : State} (hs : Ready s) (hr : s.rst = false) (v : Variant) (K S : List Byte) :
    Keyed v (keyedString s.build.keypadOnBoundary v K S) (keyed v K S s) :=
  ⟨⟨hs.1, rfl⟩, hr, rfl, rfl⟩

/-- The state in which the message has been absorbed, KMAC_FINAL performed and L bytes read. -/
def answered (X : List Byte) (L : Nat) (s : State) : State :=
  { kmacFinalEffect (absorbed X s) with
    sponge := (squeezeBytes (4 * ((L + 3) / 4)) (kmacFinalEffect (absorbed X s)).sponge).2 }

theorem answered_ready {X : List Byte} {L : Nat} {s : State} (h : Ready s) : Ready (answered X L s) := ⟨h.1, rfl⟩
theorem answered_rst (X : List Byte) (L : Nat) (s : State) : (answered X L s).rst = s.rst := rfl
theorem answered_phase (X : List Byte) (L : Nat) (s : State) : (answered X L s).phase = .kmSqueeze := rfl
theorem answered_build (X : List Byte) (L : Nat) (s : State) : (answered X L s).build = s.build := rfl
theorem answered_snap (X : List Byte) (L : Nat) (s : State) : (answered X L s).snap = s.snap := rfl
theorem answered_snapValid (X : List Byte) (L : Nat) (s : State) : (answered X L s).snapValid = s.snapValid := rfl

/-- Words of four bytes each, counted by their bytes. -/
theorem length_of_flatMap_wordBytes {ws : List Word} {n : Nat} (h : (ws.flatMap wordBytes).length = 4 * n) :
    ws.length = n := by
  have hword : ∀ w : Word, (wordBytes w).length = 4 := fun _ => rfl
  simp only [List.length_flatMap, hword, List.map_const', List.sum_replicate, smul_eq_mul] at h
  omega

/-- The message, KMAC_FINAL and the reads return the output over what was absorbed, the message and right_encode(0)
(43_kmac.md R560, R561). -/
theorem Keyed.leads_output {v : Variant} {M X : List Byte} {s : State} (h : Keyed v M s) (hX : X.length < 2 ^ 64)
    (L : Nat) :
    ∃ ws, Leads (kmacOutputAccesses s.build.kccBase X L) s (answered X L s) ws ∧ ws.length = (L + 3) / 4 ∧
      (ws.flatMap wordBytes).take L = spongeOutput v 0x04#8 (M ++ X ++ [0x00#8, 0x01#8]) L := by
  have hr := absorbed_ready (X := X) h.ready
  have hmsg := leads_absorbMessage h.ready h.rst hX (.inr (.inl h.phase))
  have hx : exec .kmacFinal (absorbed X s) = .next (kmacFinalEffect (absorbed X s)) :=
    exec_of_ready hr nofun (by simp [phaseAllowed, absorbed, h.phase]) rfl rfl
  obtain ⟨ws, hws, hout⟩ := leads_squeeze ((L + 3) / 4) (s := kmacFinalEffect (absorbed X s)) hr.1 h.rst (.inr rfl)
  refine ⟨ws, hmsg.append ((leads_cmd (s := absorbed X s) h.rst hx).append hout),
    length_of_flatMap_wordBytes (by rw [hws, squeezeBytes_length]), ?_⟩
  have hsponge : (kmacFinalEffect (absorbed X s)).sponge =
      finalPad (absorb (freshSponge v 0x04#8) (M ++ X ++ [0x00#8, 0x01#8])) := by
    rw [absorb_append, absorb_append, ← h.sponge, ← finalSuffix_eq]
    rfl
  rw [hws, take_squeezeBytes (by omega), hsponge, squeezeBytes_finalPad]

/-- The accesses of KMACXOF.v return the output over the string of 43_kmac.md R557, the message and right_encode(0). -/
theorem leads_kmacxof {v : Variant} {K S X : List Byte} {s : State} (hs : Ready s) (hr : s.rst = false)
    (hK : K.length < 2 ^ 61) (hS : S.length < 2 ^ 61) (hX : X.length < 2 ^ 64) (L : Nat) :
    ∃ ws, Leads (kmacxof s.build.kccBase v K S X L) s (answered X L (keyed v K S s)) ws ∧ ws.length = (L + 3) / 4 ∧
      (ws.flatMap wordBytes).take L =
        spongeOutput v 0x04#8 (keyedString s.build.keypadOnBoundary v K S ++ X ++ [0x00#8, 0x01#8]) L := by
  obtain ⟨ws, hout, hrest⟩ := (keyed_isKeyed hs hr v K S).leads_output hX L
  rw [kmacxof_eq]
  exact ⟨ws, (leads_keyed hs hr hK hS).append hout, hrest⟩

/-- KMAC_RESTORE returns to the sponge of which the snapshot was taken (43_kmac.md R562). -/
theorem keyed_kmacRestoreEffect {v : Variant} {M : List Byte} {s : State} (hs : Ready s) (hr : s.rst = false)
    (hsnap : s.snap = snapshotOf (absorb (freshSponge v 0x04#8) M)) : Keyed v M (kmacRestoreEffect s) := by
  refine ⟨hs, hr, rfl, ?_⟩
  rw [kmacRestoreEffect, hsnap, restoredSponge_snapshotOf (absorb_spos _ M)]

/-- The accesses of KMAC_AGAIN return the output over the string absorbed before the snapshot, its own message and
right_encode(0) (43_kmac.md R564). -/
theorem leads_kmacAgain {v : Variant} {M X : List Byte} {s : State} (hs : Ready s) (hr : s.rst = false)
    (hp : KmacPhase s.phase) (hv : s.snapValid = true)
    (hsnap : s.snap = snapshotOf (absorb (freshSponge v 0x04#8) M)) (hX : X.length < 2 ^ 64) (L : Nat) :
    ∃ ws, Leads (kmacAgain s.build.kccBase X L) s (answered X L (kmacRestoreEffect s)) ws ∧ ws.length = (L + 3) / 4 ∧
      (ws.flatMap wordBytes).take L = spongeOutput v 0x04#8 (M ++ X ++ [0x00#8, 0x01#8]) L := by
  obtain ⟨ws, hout, hrest⟩ := (keyed_kmacRestoreEffect hs hr hsnap).leads_output hX L
  rw [kmacAgain_eq]
  exact ⟨ws, (leads_cmd hr (exec_kmacRestore_of_ready hs hp hv)).append hout, hrest⟩

/-- The reads of a run are those the host made after its earlier observations. -/
theorem runInputs_readWords {es : List HostEvent} {s u : State} {ws : List Word} (h : Leads es s u ws) :
    ∃ obs, runInputs es s = .next (withLists [] obs u) ∧ readWords (obs.drop s.observed.length) = ws := by
  obtain ⟨obs, hws, hrun⟩ := h.runInputs
  exact ⟨_, hrun, by rw [List.drop_left, hws]⟩

/-- KMACXOF of SP 800-185 over the whole string it absorbs. -/
theorem standardKmacxof_eq (v : Variant) (K S X : List Byte) (L : Nat) :
    standardKmacxof v K S X L = spongeOutput v 0x04#8
      (bytepad (encodeString functionName ++ encodeString S) (rateOf v)
        ++ bytepad (encodeString K) (rateOf v) ++ X ++ [0x00#8, 0x01#8]) L := by
  rw [← finalSuffix_eq, standardKmacxof, cshakeOutput, if_neg fun h => nomatch h.1]
  simp only [finalSuffix, List.append_assoc]

end Sys2Proof.Proofs.KmacRuns

namespace Sys2Proof.Proofs
open Sys2Proof Sys2Proof.Machine Sys2Proof.Laws CommandEffects Accesses KmacRuns

/-- Settles O17: both settings absorb zeros, fewer than a block and equally many where pos is not 0; the material is
3 + minlen(8a) + a bytes long. -/
theorem keypadZeroBlockRule : Obligations.KeypadZeroBlockRule := by
  refine ⟨fun S h hr => ⟨keypad_zeroBlock h hr, keypad_noBlock h hr, fun hp => ?_⟩, fun v S a K hp hrate _ hK => ?_⟩
  · rw [keypad_zeroBlock h hr, keypad_noBlock h hr, Nat.mod_eq_of_lt (by omega)]
  · have hlen := length_ratePrefix_leftEncode v (8 * a) K
    have hlt : S.pos < S.rate := by rw [hp, hrate]; exact rateOf_pos v
    rw [absorb_pos _ hlt, hp, Nat.zero_add, ← hK, ← hlen, hrate]
    rfl

/-- Settles O40: the stream of KMAC_INIT is S and K, and the key pad ends its block. -/
theorem kmacInitAbsorbsTheKeyBlock : Obligations.KmacInitAbsorbsTheKeyBlock := by
  intro v K S s hs hr hK hS
  obtain ⟨obs, hrun, _⟩ := runInputs_readWords (leads_keyed (v := v) hs hr hK hS)
  exact ⟨_, hrun, rfl, keyedSponge_pos _ v K S, rfl, ⟨hs.1, rfl⟩, rfl, rfl⟩

/-- Settles O42: the reads return the output over the keyed string and the message; without Z the key block is a
bytepad. -/
theorem kmacxofAccessesReturnKmacxof : Obligations.KmacxofAccessesReturnKmacxof := by
  intro v K S X L s hs hr hK hS hX
  obtain ⟨ws, hleads, _, hbytes⟩ := leads_kmacxof (v := v) hs hr hK hS hX L
  obtain ⟨obs, hrun, hws⟩ := runInputs_readWords hleads
  have hout : outputBytes (obs.drop s.observed.length) L =
      spongeOutput v 0x04#8 (keyedString s.build.keypadOnBoundary v K S ++ X ++ [0x00#8, 0x01#8]) L := by
    rw [outputBytes, hws, hbytes]
  refine ⟨_, hrun, hout, fun hz => hout.trans ?_, rfl, ⟨hs.1, rfl⟩⟩
  rw [standardKmacxof_eq, keyedString, keyBlock_eq_bytepad hz]

/-- Settles O43: KMAC_RESTORE returns to the keyed state from which a fresh run issues its message. -/
theorem keyedResetLaw : Obligations.KeyedResetLaw := by
  intro v K S A B L1 L2 s hs hr hres hK hS hA hB
  obtain ⟨wsA, hfirst, hlenA, _⟩ := leads_kmacxof (v := v) hs hr hK hS hA L1
  have hsnap : (answered A L1 (keyed v K S s)).snap = snapshotOf (keyedSponge s.build.keypadOnBoundary v K S) := by
    rw [answered_snap]
    exact if_pos hres
  obtain ⟨wsB, hagain, hlenB, hbytesB⟩ := leads_kmacAgain (s := answered A L1 (keyed v K S s))
    (answered_ready ⟨hs.1, rfl⟩) ((answered_rst ..).trans hr) (.inr (.inr (answered_phase ..)))
    ((answered_snapValid ..).trans hres) hsnap hB L2
  rw [answered_build] at hagain
  obtain ⟨ws, hfresh, _, hbytes⟩ := leads_kmacxof (v := v) hs hr hK hS hB L2
  obtain ⟨obs, hrun, hws⟩ := runInputs_readWords (hfirst.append hagain)
  obtain ⟨obs', hrun', hws'⟩ := runInputs_readWords hfresh
  refine ⟨_, _, hrun, hrun', ?_, ?_⟩
  · show (readWords (obs.drop s.observed.length)).length = _
    rw [hws, List.length_append, hlenA, hlenB]
  · show (((readWords (obs.drop s.observed.length)).drop _).flatMap wordBytes).take L2 =
      outputBytes (obs'.drop s.observed.length) L2
    rw [hws, ← hlenA, List.drop_left, hbytesB, outputBytes, hws', hbytes]

end Sys2Proof.Proofs
end

section
/-! PROOF. NOP and the register accesses that run no command (44_control.md R600, R602 to R606; 10_state.md R105, R107): the
STATUS word as its fields side by side, and the halves of the length operands. -/

namespace Sys2Proof.Proofs.ControlRegisters
open Sys2Proof.Machine

theorem toNat_append_add {n m : Nat} (x : BitVec n) (y : BitVec m) : (x ++ y).toNat = 2 ^ m * x.toNat + y.toNat := by
  rw [BitVec.toNat_append, ← Nat.shiftLeft_add_eq_or_of_lt y.isLt, Nat.shiftLeft_eq, Nat.mul_comm]

/-! The STATUS word -/

/-- A field put at bit k above a field of at most k bits stands beside it. -/
theorem setWidth_or_shiftLeft {w n m k : Nat} (x : BitVec n) (y : BitVec m) (hk : n ≤ k) :
    x.setWidth w ||| y.setWidth w <<< k = (y ++ x.setWidth k).setWidth w := by
  apply BitVec.eq_of_getLsbD_eq
  intro i hi
  simp only [BitVec.getLsbD_or, BitVec.getLsbD_shiftLeft, BitVec.getLsbD_setWidth, BitVec.getLsbD_append]
  by_cases h : i < k
  · simp [h, hi]
  · simp [h, hi, BitVec.getLsbD_of_ge x i (by omega), show i - k < w by omega]

theorem bitWord_eq_setWidth (b : Bool) : bitWord b = (BitVec.ofBool b).setWidth 32 := by cases b <;> rfl

/-- The layout of R606, highest field first; each setWidth fills the zero bits above the fields it widens: [7] and
[15:14]. -/
theorem statusWord_eq_append (s : State) : statusWord s =
    s.err.op ++ (BitVec.ofNat 8 s.pend.op.code ++ (BitVec.ofNat 2 s.err.src.code ++ (BitVec.ofNat 4 s.err.cause.code ++
      (BitVec.ofBool s.err.err ++ (BitVec.ofBool s.pending ++ (BitVec.ofBool s.snapValid ++
        (BitVec.ofNat 1 (Variant.code s.sponge.var) ++ BitVec.ofNat 3 s.phase.code)))).setWidth 8)).setWidth 16) := by
  have hphase : BitVec.ofNat 32 s.phase.code = (BitVec.ofNat 3 s.phase.code).setWidth 32 := by cases s.phase <;> rfl
  have hvar : BitVec.ofNat 32 (Variant.code s.sponge.var) =
      (BitVec.ofNat 1 (Variant.code s.sponge.var)).setWidth 32 := by cases s.sponge.var <;> rfl
  have hcause : BitVec.ofNat 32 s.err.cause.code = (BitVec.ofNat 4 s.err.cause.code).setWidth 32 := by
    cases s.err.cause <;> rfl
  have hsrc : BitVec.ofNat 32 s.err.src.code = (BitVec.ofNat 2 s.err.src.code).setWidth 32 := by
    cases s.err.src <;> rfl
  have hop : BitVec.ofNat 32 s.pend.op.code = (BitVec.ofNat 8 s.pend.op.code).setWidth 32 := by
    cases s.pend.op <;> rfl
  rw [statusWord, hphase, hvar, hcause, hsrc, hop]
  simp [bitWord_eq_setWidth, setWidth_or_shiftLeft]

/-- STATUS as a number: the weighted sum of its fields. -/
theorem statusWord_toNat (s : State) : (statusWord s).toNat =
    s.phase.code % 2 ^ 3 + 2 ^ 3 * (Variant.code s.sponge.var % 2 ^ 1) + 2 ^ 4 * s.snapValid.toNat
      + 2 ^ 5 * s.pending.toNat + 2 ^ 6 * s.err.err.toNat + 2 ^ 8 * (s.err.cause.code % 2 ^ 4)
      + 2 ^ 12 * (s.err.src.code % 2 ^ 2) + 2 ^ 16 * (s.pend.op.code % 2 ^ 8) + 2 ^ 24 * s.err.op.toNat := by
  have hn := s.snapValid.toNat_le
  have hp := s.pending.toNat_le
  have he := s.err.err.toNat_le
  simp only [statusWord_eq_append, toNat_append_add, BitVec.toNat_setWidth, BitVec.toNat_ofNat, BitVec.toNat_ofBool]
  omega

theorem extractLsb'_eq_ofNat {w : Word} {k n c : Nat} (h : w.toNat / 2 ^ k % 2 ^ n = c % 2 ^ n) :
    w.extractLsb' k n = BitVec.ofNat n c := by
  apply BitVec.eq_of_toNat_eq
  rw [BitVec.extractLsb'_toNat, Nat.shiftRight_eq_div_pow, h, BitVec.toNat_ofNat]

theorem getLsbD_eq_of_div_mod {w : Word} {k : Nat} {b : Bool} (h : w.toNat / 2 ^ k % 2 = b.toNat) :
    w.getLsbD k = b := by
  rw [BitVec.getLsbD, Nat.testBit_eq_decide_div_mod_eq, h]
  cases b <;> rfl

/-! The length operands -/

/-- A new low half: the operand keeps its bits [63:32]. -/
theorem toNat_append_new_low (hi lo v : Word) :
    (hi ++ v).toNat = (hi ++ lo).toNat / 2 ^ 32 * 2 ^ 32 + v.toNat := by
  rw [toNat_append_add, toNat_append_add]
  omega

/-- A new high half: the operand keeps its bits [31:0]. -/
theorem toNat_append_new_high (hi lo v : Word) :
    (v ++ lo).toNat = v.toNat * 2 ^ 32 + (hi ++ lo).toNat % 2 ^ 32 := by
  rw [toNat_append_add, toNat_append_add]
  omega

end Sys2Proof.Proofs.ControlRegisters

namespace Sys2Proof.Proofs
open Sys2Proof.Machine Sys2Proof.Laws ControlRegisters

/-- Settles O21: NOP is allowed in every phase, and its effect is the identity. -/
theorem nopChangesNothing : Obligations.NopChangesNothing :=
  fun _ hs => exec_of_ready hs nofun rfl rfl rfl

/-- Settles O44: each field is a quotient and remainder of the weighted sum that the word is. -/
theorem statusWordFields : Obligations.StatusWordFields := by
  intro s
  have hw : (readReg .status s).1.toNat = _ := statusWord_toNat s
  have hn := s.snapValid.toNat_le
  have hp := s.pending.toNat_le
  have he := s.err.err.toNat_le
  have hvar : (decide (s.sponge.var = .v256)).toNat = Variant.code s.sponge.var % 2 ^ 1 := by
    cases s.sponge.var <;> rfl
  refine ⟨rfl,
    (extractLsb'_eq_ofNat (c := s.phase.code) ?_).trans (by cases s.phase <;> rfl),
    getLsbD_eq_of_div_mod ?_,
    getLsbD_eq_of_div_mod ?_,
    getLsbD_eq_of_div_mod (b := s.pending) ?_,
    getLsbD_eq_of_div_mod ?_,
    getLsbD_eq_of_div_mod (b := false) (show _ = 0 from ?_),
    (extractLsb'_eq_ofNat (c := s.err.cause.code) ?_).trans (by cases s.err.cause <;> rfl),
    (extractLsb'_eq_ofNat (c := s.err.src.code) ?_).trans (by cases s.err.src <;> rfl),
    extractLsb'_eq_ofNat (c := 0) ?_,
    (extractLsb'_eq_ofNat (c := s.pend.op.code) ?_).trans (by cases s.pend.op <;> rfl),
    (extractLsb'_eq_ofNat (c := s.err.op.toNat) ?_).trans (by
      rw [BitVec.ofNat_toNat, BitVec.setWidth_eq])⟩
  all_goals omega

/-- Settles O46: of the registers named, none is DOUT, and each value is the model's own. -/
theorem pureReads : Obligations.PureReads := by
  intro s
  have hencLen : (s.encLen.setWidth 32).toNat = s.encLen.toNat := BitVec.toNat_setWidth_of_le (by decide)
  exact ⟨rfl, rfl, rfl, rfl, rfl, rfl, rfl, ⟨hencLen, rfl⟩, rfl, rfl, rfl, ⟨rfl, rfl⟩, rfl, rfl, rfl⟩

/-- Settles O47, one register at a time. -/
theorem ignoredWrites : Obligations.IgnoredWrites := by
  intro r v s hr
  simp only [List.mem_cons, List.not_mem_nil, or_false] at hr
  obtain rfl | rfl | rfl | rfl | rfl | rfl | rfl | rfl | rfl := hr
  all_goals rfl

/-- Settles O48: the operand is its two halves, and a write replaces one of them. -/
theorem lengthWritesSetOneHalf : Obligations.LengthWritesSetOneHalf := fun v s =>
  ⟨⟨_, rfl, rfl, rfl, toNat_append_new_low s.lenaHi s.lenaLo v, rfl⟩,
   ⟨_, rfl, rfl, rfl, toNat_append_new_high s.lenaHi s.lenaLo v, rfl⟩,
   ⟨_, rfl, rfl, rfl, toNat_append_new_low s.lenbHi s.lenbLo v, rfl⟩,
   ⟨_, rfl, rfl, rfl, toNat_append_new_high s.lenbHi s.lenbLo v, rfl⟩⟩

/-- Settles O49: bit 0 of a word is its parity. -/
theorem intenWritesSetErrie : Obligations.IntenWritesSetErrie := by
  intro v s
  have hbit : v.getLsbD 0 = decide (v.toNat % 2 = 1) := Nat.testBit_zero _
  rw [← hbit]
  exact ⟨_, rfl, rfl, rfl⟩

end Sys2Proof.Proofs
end

section
/-! PROOF. The errors (60_exceptions.md R700 to R710): the checks of steps 4 to 7 of R702 read off the number OP, and
everything a register access can do to the latch. -/

namespace Sys2Proof.Proofs.Errors
open Sys2Proof Sys2Proof.Machine Sys2Proof.Laws CommandWords Accesses Phases

/-! The checks on the word as a number -/

/-- The conditions of 30_encoding.md R307 and the decoder agree. -/
theorem wellFormed_iff_decodes (w : Word) : CmdWord.wellFormed w = true ↔ ∃ i, decode w = .ok i := by
  have hill := (rejected_iff_not_decodes w).symm.trans (illegalWordsByCondition w).1
  rw [← not_iff_not, hill]
  simp only [CmdWord.wellFormed, CmdWord.opKnown, CmdWord.reservedClear, CmdWord.variantAllowed, Bool.and_eq_true,
    Bool.or_eq_true, decide_eq_true_eq, beq_iff_eq]
  omega

theorem opcode_of_decode {w : Word} {i : Instr} (h : decode w = .ok i) :
    i.opcode = BitVec.ofNat 8 (w.toNat % 256) := by
  obtain ⟨_, _, ho⟩ := fields_of_decode h
  rw [← ho, opField_eq_ofNat]

theorem opcode_toNat_of_decode {w : Word} {i : Instr} (h : decode w = .ok i) : i.opcode.toNat = w.toNat % 256 := by
  rw [opcode_of_decode h, BitVec.toNat_ofNat, Nat.mod_mod]

theorem phaseAllowed_iff (i : Instr) (p : Phase) :
    phaseAllowed i p = true ↔ p.code ∈ allowedPhaseCodes i.opcode.toNat := by
  cases i with
  | csInit v | kmacInit v => cases v <;> cases p <;> decide
  | _ => cases p <;> decide

theorem snapshotMissing_iff (i : Instr) (s : State) :
    snapshotMissing i s = true ↔ i.opcode.toNat = 0x06 ∧ s.snapValid = false := by
  cases i <;> simp [snapshotMissing, Instr.opcode]

theorem lengthError_iff (i : Instr) (s : State) :
    lengthError i s = true ↔
      (i.opcode.toNat = 0x01 ∨ i.opcode.toNat = 0x04) ∧ (2 ^ 61 ≤ s.lena.toNat ∨ 2 ^ 61 ≤ s.lenb.toNat) := by
  cases i <;> simp [lengthError, lengthTooLong, Instr.opcode]

/-- Steps 4 to 7 of 60_exceptions.md R702 on OP as a number. -/
theorem failedCheck_of_decode {w : Word} {i : Instr} (h : decode w = .ok i) (s : State) :
    failedCheck i s =
      if s.pend.op ≠ .idle then some .protocol
      else if s.phase.code ∉ allowedPhaseCodes (w.toNat % 256) then some .badPhase
      else if w.toNat % 256 = 0x06 ∧ s.snapValid = false then some .noSnapshot
      else if (w.toNat % 256 = 0x01 ∨ w.toNat % 256 = 0x04) ∧ (2 ^ 61 ≤ s.lena.toNat ∨ 2 ^ 61 ≤ s.lenb.toNat) then
        some .length
      else none := by
  have hp : (!phaseAllowed i s.phase) = true ↔ s.phase.code ∉ allowedPhaseCodes (w.toNat % 256) := by
    rw [Bool.not_eq_true', ← Bool.not_eq_true, phaseAllowed_iff, opcode_toNat_of_decode h]
  have hm := snapshotMissing_iff i s
  have hl := lengthError_iff i s
  rw [opcode_toNat_of_decode h] at hm hl
  simp only [failedCheck, pending_eq_true, hp, hm, hl]

/-! What each access does in the order of its checks -/

theorem writeReg_cmd_raises_illegalCmd {w : Word} {s : State} (he : s.err.err = false)
    (hw : CmdWord.wellFormed w = false) :
    writeReg .cmd w s = .next (raiseError .illegalCmd .cmdWrite (BitVec.ofNat 8 (w.toNat % 256)) s) := by
  obtain ⟨e, hd⟩ := (rejected_iff_not_decodes w).2 (by rw [← wellFormed_iff_decodes, hw]; exact Bool.false_ne_true)
  rw [writeReg_cmd_of_error hd, if_neg (by simp [he]), opField_eq_ofNat]

/-- What a write of a legal word other than that of SOFT_RESET does while ERR = 0, by the check the word fails
(60_exceptions.md R702 steps 4 to 8). -/
def CheckedOutcome (w : Word) (s : State) : Option ErrCause → Prop
  | some c => writeReg .cmd w s = .next (raiseError c .cmdWrite (BitVec.ofNat 8 (w.toNat % 256)) s)
  | none => ∃ i t, decode w = .ok i ∧ exec i s = .next t ∧ writeReg .cmd w s = .next t ∧ t.err = s.err

theorem checkedOutcome_failedCheck {w : Word} {i : Instr} {s : State} (hd : decode w = .ok i) (hi : i ≠ .softReset)
    (he : s.err.err = false) : CheckedOutcome w s (failedCheck i s) := by
  cases hf : failedCheck i s with
  | some c =>
    show writeReg .cmd w s = _
    rw [writeReg_cmd_of_decode hd, exec_eq_checked hi, checked_raises he hf, opcode_of_decode hd]
  | none =>
    have hx := exec_performs hi he hf
    exact ⟨i, _, hd, hx, (writeReg_cmd_of_decode hd s).trans hx, effect_err hi s⟩

/-- While ERR = 1 every word but that of SOFT_RESET is ignored (60_exceptions.md R702 step 2, R704). -/
theorem writeReg_cmd_halted {w : Word} {s : State} (he : s.err.err = true) (hw : w ≠ 0x000000FF#32) :
    writeReg .cmd w s = .next s := by
  obtain ⟨hd, _⟩ | ⟨_, _, e⟩ | ⟨_, _, he', _⟩ | ⟨_, _, _, _, he', _⟩ | ⟨_, _, _, he', _⟩ := writeCmd_cases w s
  · exact absurd ((softResetInEveryState.1 w).1 hd) hw
  · exact e
  all_goals exact absurd (he.symm.trans he') nofun

theorem writeDin_halted {s : State} (he : s.err.err = true) (w : Word) : writeDin w s = s := if_pos he

theorem readDout_halted {s : State} (he : s.err.err = true) : readDout s = (0#32, s) := if_pos he

/-! What an access does to the latch -/

/-- The latch of an error of a write (60_exceptions.md R703). -/
def LatchOfWrite (r : Reg) (w : Word) (e : ErrLatch) : Prop :=
  (r = .cmd ∧ e.src = .cmdWrite ∧ e.op = BitVec.ofNat 8 (w.toNat % 256))
  ∨ (r = .din ∧ e = { err := true, cause := .protocol, src := .dinWrite, op := 0x00#8 })

/-- A write keeps the latch, is a SOFT_RESET, or sets the latch and nothing else. -/
theorem writeReg_latch {r : Reg} {w : Word} {s u : State} (hw : writeReg r w s = .next u) :
    u.err = s.err
    ∨ (r = .cmd ∧ w = 0x000000FF#32 ∧ u = clearBlock s)
    ∨ (s.err.err = false ∧ u = { s with err := u.err } ∧ LatchOfWrite r w u.err) := by
  cases r with
  | cmd =>
    obtain ⟨hd, e⟩ | ⟨_, _, e⟩ | ⟨_, _, he, e⟩ | ⟨i, c, hd, _, he, _, e⟩ | ⟨i, _, hi, _, _, e⟩ := writeCmd_cases w s
    all_goals obtain rfl := Host.Outcome.next.inj (e.symm.trans hw)
    · exact .inr (.inl ⟨rfl, (softResetInEveryState.1 w).1 hd, rfl⟩)
    · exact .inl rfl
    · exact .inr (.inr ⟨he, rfl, .inl ⟨rfl, rfl, opField_eq_ofNat w⟩⟩)
    · exact .inr (.inr ⟨he, rfl, .inl ⟨rfl, rfl, opcode_of_decode hd⟩⟩)
    · exact .inl (effect_err hi s)
  | din =>
    obtain rfl := Host.Outcome.next.inj hw
    obtain ⟨_, e⟩ | ⟨_, _, e⟩ | ⟨he, _, e⟩ := writeDin_cases w s
    all_goals rw [e]
    · exact .inl rfl
    · exact .inl (consumeBytes_err _ s)
    · exact .inr (.inr ⟨he, rfl, .inr ⟨rfl, rfl⟩⟩)
  | _ =>
    obtain rfl := Host.Outcome.next.inj hw
    exact .inl rfl

/-- A read keeps the latch, or is of DOUT, returns 0 and sets the latch and nothing else. -/
theorem readReg_latch (r : Reg) (s : State) :
    (readReg r s).2.err = s.err
    ∨ (s.err.err = false ∧ r = .dout ∧ readReg r s = (0#32, raiseError .badPhase .doutRead 0x00#8 s)) := by
  by_cases hr : r = .dout
  · subst hr
    obtain ⟨_, e⟩ | ⟨_, _, e⟩ | ⟨he, _, e⟩ := readDout_cases s
    · exact .inl (congrArg (·.2.err) e)
    · exact .inl (congrArg (·.2.err) e)
    · exact .inr ⟨he, rfl, e⟩
  · exact .inl (by rw [readReg_state hr])

/-- Of the registers only STATUS shows the latch; DOUT obeys it (60_exceptions.md R704). -/
theorem readReg_value_withErr {r : Reg} (hd : r ≠ .dout) (hst : r ≠ .status) (s : State) (e : ErrLatch) :
    (readReg r s).1 = (readReg r { s with err := e }).1 := by
  cases r with
  | dout => exact absurd rfl hd
  | status => exact absurd rfl hst
  | _ => rfl

/-! Register accesses record no observation of their own (log 3). -/

theorem writeReg_observed {r : Reg} {w : Word} {s u : State} (hw : writeReg r w s = .next u) :
    u.observed = s.observed := by
  have hl : writeReg r w s = .next (withLists s.inputs s.observed u) := writeReg_withLists s.inputs s.observed hw
  rw [Host.Outcome.next.inj (hw.symm.trans hl)]
  rfl

theorem readReg_observed (r : Reg) (s : State) : (readReg r s).2.observed = s.observed := by
  by_cases hr : r = .dout
  · subst hr
    show (readDout s).2.observed = s.observed
    obtain ⟨_, e⟩ | ⟨_, _, e⟩ | ⟨_, _, e⟩ := readDout_cases s
    all_goals simp [e]
  · rw [readReg_state hr]

/-! Edges of rst (70_reset_and_hazards.md R800) -/

theorem assertReset_holdsResetValues (s : State) : HoldsResetValues (assertReset s) :=
  { clearBlock_holdsResetValues s with }

/-- A release of rst is an edge that resets, or none. -/
theorem releaseReset_cases (s : State) :
    (s.rst = true ∧ HoldsResetValues (releaseReset s)) ∨ (s.rst = false ∧ releaseReset s = s) := by
  cases hr : s.rst with
  | true =>
    rw [releaseReset_asserted hr]
    exact .inl ⟨rfl, { clearBlock_holdsResetValues s with }⟩
  | false => exact .inr ⟨rfl, if_neg (Bool.eq_false_iff.1 hr)⟩

end Sys2Proof.Proofs.Errors

namespace Sys2Proof.Proofs
open Sys2Proof.Machine Sys2Proof.Laws Secrets Phases Errors

/-- Settles O32: the first condition of R702 that holds decides which check of the model fails, if any. -/
theorem checkOrder : Obligations.CheckOrder := by
  refine ⟨fun w s => ?_, fun w s => ?_, fun s => ?_⟩
  · dsimp only
    split
    next hw => exact ⟨clearBlock s, by rw [hw]; rfl, clearBlock_holdsResetValues s⟩
    next hw =>
    split
    next he => exact writeReg_cmd_halted he hw
    next he =>
    rw [Bool.not_eq_true] at he
    split
    next hwf => exact writeReg_cmd_raises_illegalCmd he hwf
    next hwf =>
    rw [Bool.not_eq_false, wellFormed_iff_decodes] at hwf
    obtain ⟨i, hd⟩ := hwf
    have hi : i ≠ .softReset := fun h => hw ((softResetInEveryState.1 w).1 (h ▸ hd))
    have h := checkedOutcome_failedCheck hd hi he
    rw [failedCheck_of_decode hd s] at h
    simp only [apply_ite (CheckedOutcome w s)] at h
    exact h
  · obtain ⟨he, e⟩ | ⟨he, hp, e⟩ | ⟨he, hp, e⟩ := writeDin_cases w s
    · rw [if_pos he]
      exact congrArg Host.Outcome.next e
    · rw [if_neg (Bool.eq_false_iff.1 he), if_neg hp]
      exact ⟨_, congrArg Host.Outcome.next e, consumeBytes_err _ s⟩
    · rw [if_neg (Bool.eq_false_iff.1 he), if_pos hp]
      exact congrArg Host.Outcome.next e
  · obtain ⟨he, e⟩ | ⟨he, hq, e⟩ | ⟨he, hq, e⟩ := readDout_cases s
    · rw [if_pos he]
      exact e
    · rw [if_neg (Bool.eq_false_iff.1 he), if_neg (by rw [← squeezing_eq_false, hq]; nofun)]
      exact congrArg (·.2.err) e
    · rw [if_neg (Bool.eq_false_iff.1 he), if_pos (squeezing_eq_false.1 hq)]
      exact e

/-- Settles O33: of the things a step can do, only a register access that latches takes ERR to 1. -/
theorem errorsArePrecise : Obligations.ErrorsArePrecise := by
  intro s t hst he ht
  have hne {e : ErrLatch} (h : e.err = true) : e ≠ s.err := fun hs => Bool.false_ne_true (he.symm.trans (hs ▸ h))
  obtain ⟨_, rfl⟩ | ⟨addr, m, w, rest, u, hi, _, hw, rfl⟩ | ⟨addr, m, rest, hi, _, rfl⟩ | ⟨rest, _, rfl⟩
    | ⟨a, rest, _, _, rfl⟩ | ⟨rest, _, rfl⟩ := step_cases hst
  · exact absurd rfl (hne ht)
  · obtain h | ⟨_, _, rfl⟩ | ⟨_, hu, hl⟩ := writeReg_latch hw
    · exact absurd h (hne ht)
    · cases ht
    · refine ⟨by rw [hu]; rfl, _, rest, hi, by rw [hu]; rfl, ?_⟩
      obtain ⟨hr, hsrc, hop⟩ | ⟨hr, hl⟩ := hl
      · exact .inl ⟨addr, m, w, rfl, hr, hsrc, hop⟩
      · exact .inr (.inl ⟨addr, m, w, rfl, hr, hl⟩)
  · obtain h | ⟨_, hr, hd⟩ := readReg_latch (selectReg s.build.kccBase addr) (s.withInputs rest)
    · exact absurd h (hne ht)
    · rw [hd]
      exact ⟨rfl, _, rest, hi, rfl, .inr (.inr ⟨addr, m, rfl, hr, rfl, rfl⟩)⟩
  · cases ht
  · cases ht
  · obtain ⟨_, hv⟩ | ⟨_, e⟩ := releaseReset_cases (s.withInputs rest)
    · cases hv.err ▸ ht
    · exact absurd (by rw [e]; rfl) (hne ht)

/-- Settles O34: CMD, DIN and DOUT look at ERR first, and the other registers do not look at it. -/
theorem haltedCoreIgnoresAccesses : Obligations.HaltedCoreIgnoresAccesses := by
  intro s he
  have hdout : readReg .dout s = (0#32, s) := readDout_halted he
  refine ⟨fun w => writeReg_cmd_halted he, fun w => congrArg Host.Outcome.next (writeDin_halted he w), hdout, fun r => ?_,
    fun r hd hst => readReg_value_withErr hd hst s _, rfl, ?_, fun v => ⟨rfl, rfl, rfl, rfl, rfl⟩⟩
  · by_cases hr : r = .dout
    · rw [hr, hdout]
    · exact readReg_state hr s
  · obtain ⟨_, _, _, _, _, hbit, _⟩ := statusWordFields s
    exact hbit.trans he

/-- Settles O35: a halted core latches nothing, so an access keeps the latch or is a SOFT_RESET. -/
theorem latchClearedOnlyByReset : Obligations.LatchClearedOnlyByReset := by
  intro s t hst he
  obtain ⟨_, rfl⟩ | ⟨addr, m, w, rest, u, hi, _, hw, rfl⟩ | ⟨addr, m, rest, _, _, rfl⟩ | ⟨rest, hi, rfl⟩
    | ⟨a, rest, hi, _, rfl⟩ | ⟨rest, hi, rfl⟩ := step_cases hst
  · exact .inl rfl
  · obtain h | ⟨hr, rfl, rfl⟩ | ⟨he', _⟩ := writeReg_latch hw
    · exact .inl h
    · have hc := clearBlock_holdsResetValues (s.withInputs rest)
      exact .inr ⟨{ hc with }, _, rest, hi, .inl ⟨addr, m, rfl, hr⟩⟩
    · exact absurd (he.symm.trans he') nofun
  · exact .inl ((readReg_latch _ (s.withInputs rest)).resolve_right fun h => absurd (he.symm.trans h.1) nofun)
  · exact .inr ⟨assertReset_holdsResetValues _, _, rest, hi, .inr (.inl rfl)⟩
  · exact .inr ⟨assertReset_holdsResetValues _, _, rest, hi, .inr (.inr (.inl ⟨a, rfl⟩))⟩
  · obtain ⟨hr, hv⟩ | ⟨_, e⟩ := releaseReset_cases (s.withInputs rest)
    · exact .inr ⟨hv, _, rest, hi, .inr (.inr (.inr ⟨rfl, hr⟩))⟩
    · exact .inl (by rw [e]; rfl)

/-- Settles O53: the observation is made of the state the access reached, and is the only one. -/
theorem irqAfterEveryAccess : Obligations.IrqAfterEveryAccess := by
  intro s t a rest hi hst
  refine ⟨rfl, ?_⟩
  have hr : s.rst = false := by
    by_contra h
    cases (step_access_while_rst hi (Bool.of_not_eq_false h)).symm.trans hst
  cases a with
  | write addr m w =>
    obtain ⟨u, hw⟩ := writeReg_next (selectReg s.build.kccBase addr) w (s.withInputs rest)
    obtain rfl := Host.Outcome.next.inj ((step_write hi hr hw).symm.trans hst)
    exact ⟨_, congrArg (· ++ _) (writeReg_observed (s := s.withInputs rest) hw), .inl rfl⟩
  | read addr m =>
    obtain rfl := Host.Outcome.next.inj ((step_read hi hr).symm.trans hst)
    exact ⟨_, congrArg (· ++ _) (readReg_observed _ (s.withInputs rest)), .inr ⟨_, rfl⟩⟩

end Sys2Proof.Proofs
end

section
/-! PROOF. The build parameters (70_reset_and_hazards.md R802): no command, register access or edge of rst writes them, and
HWCFG reads two of them (10_state.md R103). -/

namespace Sys2Proof.Proofs.BuildParameters
open Sys2Proof Sys2Proof.Machine Sys2Proof.Laws CommandEffects

@[simp] theorem effect_build (i : Instr) (s : State) : (effect i s).build = s.build := by
  cases i with
  | csInit v =>
    show (csInitEffect v s).build = s.build
    rw [csInitEffect_eq]
    split
    · rfl
    · exact advance_build _
  | absorb | kmacInit v => exact advance_build _
  | nop | csFinal | kmacFinal | kmacRestore | encLeft | encRight | softReset => rfl

theorem writeReg_build {r : Reg} {w : Word} {s u : State} (hw : writeReg r w s = .next u) : u.build = s.build := by
  cases r with
  | cmd =>
    obtain ⟨_, e⟩ | ⟨_, _, e⟩ | ⟨_, _, _, e⟩ | ⟨_, _, _, _, _, _, e⟩ | ⟨_, _, _, _, _, e⟩ := writeCmd_cases w s
    all_goals
      obtain rfl := Host.Outcome.next.inj (e.symm.trans hw)
      simp
  | din =>
    obtain rfl := Host.Outcome.next.inj hw
    obtain ⟨_, e⟩ | ⟨_, _, e⟩ | ⟨_, _, e⟩ := writeDin_cases w s
    all_goals simp [e]
  | _ =>
    obtain rfl := Host.Outcome.next.inj hw
    rfl

@[simp] theorem readReg_build (r : Reg) (s : State) : (readReg r s).2.build = s.build := by
  by_cases hr : r = .dout
  · subst hr
    show (readDout s).2.build = s.build
    obtain ⟨_, e⟩ | ⟨_, _, e⟩ | ⟨_, _, e⟩ := readDout_cases s
    all_goals simp [e]
  · rw [readReg_state hr]

@[simp] theorem assertReset_build (s : State) : (assertReset s).build = s.build := rfl

@[simp] theorem abandonAccess_build (a : BusAccess) (s : State) : (abandonAccess a s).build = s.build := by
  cases a <;> rfl

@[simp] theorem releaseReset_build (s : State) : (releaseReset s).build = s.build := by
  unfold releaseReset
  split <;> rfl

theorem step_build {s t : State} (hst : step s = .next t) : t.build = s.build := by
  obtain ⟨_, rfl⟩ | ⟨_, _, _, _, u, _, _, hw, rfl⟩ | ⟨_, _, _, _, _, rfl⟩ | ⟨_, _, rfl⟩ | ⟨_, _, _, _, rfl⟩
    | ⟨_, _, rfl⟩ := step_cases hst
  · rfl
  · simpa using writeReg_build hw
  all_goals simp

/-- The two bits of HWCFG do not overlap, so the word is their sum (10_state.md R103). -/
theorem hwcfgWord_eq_add (p : BuildParams) :
    hwcfgWord p = (if p.resettable then 1#32 else 0#32) + (if p.keypadOnBoundary = .zeroBlock then 2#32 else 0#32) := by
  unfold hwcfgWord
  cases p.resettable <;> cases p.keypadOnBoundary <;> decide

end Sys2Proof.Proofs.BuildParameters

namespace Sys2Proof.Proofs
open Sys2Proof.Machine BuildParameters

/-- Settles O54: each thing a step can do keeps the parameters, and HWCFG is the sum of its two bits. -/
theorem buildParametersNeverChange : Obligations.BuildParametersNeverChange :=
  ⟨fun _ _ => step_build, fun s => hwcfgWord_eq_add s.build⟩

end Sys2Proof.Proofs
end
